-- ==== Sys2Proof/Word.lean ====
section
/-! DEFINITION. The words the block moves: 32-bit registers and commands (R6), 16-bit samples (R39),
8-bit stream bytes (R23). -/

namespace Sys2Proof

/-- A register, a command word, a bus datum (R6: 32 bits unless a rule says otherwise). -/
abbrev Word := BitVec 32

/-- One entry of the cycle RAM as a bit pattern (R39: signed 16 bits). -/
abbrev Half := BitVec 16

/-- One byte of the output stream (R23) or of stored memory. -/
abbrev Byte := BitVec 8

end Sys2Proof
end

