-- ==== Sys2Proof/Config.lean ====
section
/-! DEFINITION. What an implementation fixes (R5, R25) and the values the spec leaves free. The fixed
parameters are plain data, carried by a field of the state that no step writes, so that every claim is
about every configuration; the free values are opaque constants. -/

namespace Sys2Proof

/-- The OPEN parameters of R5 that are plain data (R25: configuration of the model, not state).
DESIGN CHOICE, safe: they are an argument of every claim (log 5). -/
structure Config where
  /-- `CYCLE_DEPTH`, the entries of the cycle RAM (R5, D13): any integer from 1 to 2^32 - 1. -/
  cycleDepth : Nat
  /-- `SIN_EPS`, the error bound of `SIN_FN` (R5, D8): at least 0 and below 2^-16. -/
  sinEps : Rat
  deriving DecidableEq, Repr

/-- The defaults R5 prints: `CYCLE_DEPTH` 4096 and `SIN_EPS` 2^-24. -/
def Config.standard : Config := { cycleDepth := 4096, sinEps := 1 / 16777216 }

/-- Clause 2 of R109: within `eps` of the sine of `2*pi*x` on [0, 1). -/
def SinNear (eps : Rat) (f : Rat → Rat) : Prop :=
  ∀ x : Rat, 0 ≤ x → x < 1 →
    |((f x : Rat) : ℝ) - Real.sin (2 * Real.pi * (x : ℝ))| ≤ ((eps : Rat) : ℝ)

/-- The contract of R109, clauses 3, 4 and 2 (clause 1 is that `f` is a function of `x`). Clause 2 is
required for a positive `SIN_EPS`: with 0 it would ask for the real sine itself, and no function to the
rationals meets it (proved in Sys2Proof/Laws/Sine.lean). DESIGN CHOICE, safe (log 10). -/
def SinContract (eps : Rat) (f : Rat → Rat) : Prop :=
  f 0 = 0 ∧ (∀ x : Rat, 0 ≤ x → x < 1 → |f x| ≤ 1) ∧ (0 < eps → SinNear eps f)

/-- A function that meets the contract. -/
abbrev SinFunction (eps : Rat) : Type := { f : Rat → Rat // SinContract eps f }

/-- FREE VALUE: the implementation's `SIN_FN` (R5, OPEN) for an error bound. All that is known of it is
its type: it meets the contract of R109 (log 10). Safe: any function that does is a value this constant
may have. That there is one is the argument in brackets, which Sys2Proof.Machine.sinWitness supplies. -/
opaque Config.sinRaw (eps : Rat) [Inhabited (SinFunction eps)] : SinFunction eps

/-- FREE VALUE: the draw of the power-up reset (R5 `RESET_PRNG`, R44, R134), counted from 0 over the
2^32 - 1 non-zero words; later resets bring their own draw (log 6). Safe: nothing is known of it. -/
opaque Config.powerUpDraw : Fin 4294967295

end Sys2Proof
end

