-- ==== Sys2Proof/Syntax.lean ====
section
/-! DEFINITION. The commands of the block (R81), the waveform kinds (R85) and the one command format
`CMDW` (R80). -/

namespace Sys2Proof

/-- The five waveform kinds in the order R85 numbers them. -/
inductive Kind where
  | sine
  | tri
  | saw
  | pulse
  | noise
  deriving DecidableEq, Repr

/-- The nine commands, one constructor per row of the opcode table (R81). No command has an operand
field: every operand is read from a register (R84). -/
inductive Instr where
  | nop
  | genSine
  | genTri
  | genSaw
  | genPulse
  | genNoise
  | pack
  | seed
  | clrerr
  deriving DecidableEq, Repr

/-- The fields of a command word, format `CMDW` (R80). -/
structure Cmdw where
  /-- Bits 31:8, `RSV`. -/
  rsv : BitVec 24
  /-- Bits 7:4, `MAJ`. -/
  major : BitVec 4
  /-- Bits 3:0, `MIN`. -/
  minor : BitVec 4
  deriving DecidableEq, Repr

/-- The columns MAJ and MIN of R81 for each command, with `RSV` 0 (R80). -/
def Instr.cmdw : Instr → Cmdw
  | .nop => ⟨0, 0, 0⟩
  | .genSine => ⟨0, 1, 0⟩
  | .genTri => ⟨0, 1, 1⟩
  | .genSaw => ⟨0, 1, 2⟩
  | .genPulse => ⟨0, 1, 3⟩
  | .genNoise => ⟨0, 1, 4⟩
  | .pack => ⟨0, 2, 0⟩
  | .seed => ⟨0, 3, 0⟩
  | .clrerr => ⟨0, 4, 0⟩

/-- The `GEN_*` command of a kind (R81, R85). -/
def Kind.command : Kind → Instr
  | .sine => .genSine
  | .tri => .genTri
  | .saw => .genSaw
  | .pulse => .genPulse
  | .noise => .genNoise

end Sys2Proof
end

