-- ==== Sys2Proof/Machine/State.lean ====
section
/-! DEFINITION. The state of the block (R20), all of it plain data, the moves of the four agents (R10),
and the state after reset (R44). -/

namespace Sys2Proof.Machine

/-- What is running (R41). -/
inductive Run where
  | idle
  | gen (k : Kind)
  | pack
  deriving DecidableEq, Repr

/-- Which byte of the current output sample is next (R41 `bph`: `low` is 0, `high` is 1). -/
inductive BytePhase where
  | low
  | high
  deriving DecidableEq, Repr

/-- One transfer on the output stream (R23): the byte and the `last` marker. -/
structure OutByte where
  byte : Byte
  last : Bool
  deriving DecidableEq, Repr

/-- The size of a bus access (R60: 1, 2 or 4 bytes). -/
inductive AccessSize where
  | byte
  | half
  | word
  deriving DecidableEq, Repr

/-- The bus response (R24, R60). -/
inductive BusResp where
  | okay
  | err
  deriving DecidableEq, Repr

/-- What a transaction gives back to the host (R60). -/
inductive BusReply where
  /-- The answer of `MemRead`: response and data. -/
  | read (resp : BusResp) (data : Word)
  /-- The answer of `MemWrite`: the response. -/
  | write (resp : BusResp)
  deriving DecidableEq, Repr

/-- One move of one agent (R10). The list of them in the state is one interleaving of the agents
(R25, R69), given as data: DESIGN CHOICE, safe (log 1). -/
inductive Event where
  /-- `MemRead(addr, n)` (R60). -/
  | hostRead (addr : Nat) (size : AccessSize)
  /-- `MemWrite(addr, n, v)` (R60). -/
  | hostWrite (addr : Nat) (size : AccessSize) (data : Word)
  /-- The sequencer takes its enabled step, if it has one (R69). -/
  | sequencer
  /-- The consumer drives `out_ready` (R24, R161). -/
  | consumer (ready : Bool)
  /-- `rst_n` is asserted and released, as one step, with its fresh draw (R220, R221, log 7). -/
  | reset (draw : Fin 4294967295)
  deriving DecidableEq, Repr

/-- The errors the block records (R190). They are state, not faults of the model. -/
inductive BlockError where
  | invalidFrequency
  | invalidDutyCycle
  | emptyCycle
  | periodTooLong
  | illegalCommand
  deriving DecidableEq, Repr

/-- Stored memory: address and byte, addresses rising, no entry equal to what an unlisted address
reads as (`Memory.wf` of Machine/Ops.lean). -/
abbrev Memory := List Host.Cell

/-- Why the model stops. The spec has no stop: both are raised by run steps only, in states that no
run from reset reaches, and both are safe (logs 11 and 12). -/
inductive Fault where
  /-- Raised by `genStep` and `packStep` for a cycle RAM index at or above `CYCLE_DEPTH` (R39: the
  RAM has no such entry). Safe. -/
  | cycleIndexOutOfRange
  /-- Raised by `packStep` when `PERIOD = 0` (R112: `n mod PERIOD` is never taken there). Safe. -/
  | tileOfEmptyCycle
  deriving DecidableEq, Repr

/-- Why a step is refused. -/
inductive Refusal where
  /-- Raised by `exec` for an instruction without a meaning; no arm does so now. Safe. -/
  | notModelled (mnemonic : String)
  deriving DecidableEq, Repr

/-- The complete state (R20), and after it the model's own four fields. `ID` and `CMD` store nothing
(R21, R32); `BUSY`, `CYCV` and `irq` are functions of the fields (R33, R42). -/
structure State where
  /-- `STATUS.DONE` (R33). -/
  done : Bool
  /-- `STATUS.ERR` (R33). -/
  err : Bool
  /-- `STATUS.OVR` (R33). -/
  ovr : Bool
  /-- `ERRCODE[3:0]` (R34). -/
  errcode : BitVec 4
  /-- `ERRCMD` (R35). -/
  errcmd : Word
  /-- `CTRL[1:0]`: bit 0 `IE_DONE`, bit 1 `IE_ERR` (R36). -/
  ctrl : BitVec 2
  /-- `FREQ`, UQ16.16 hertz (R27). -/
  freq : Word
  /-- `AMP`, SQ15.16 (R28). -/
  amp : Word
  /-- `DUR`, UQ16.16 seconds (R29). -/
  dur : Word
  /-- `DUTY[7:0]`, percent (R30). -/
  duty : Byte
  /-- `SEED` (R31). -/
  seed : Word
  /-- `PERIOD` (R37). -/
  period : Word
  /-- `NSAMP` (R38). -/
  nsamp : Word
  /-- `CYC` (R39): entry `i` is the bytes at `2*i` (low) and `2*i + 1` (high) (log 9). -/
  cyc : Memory
  /-- `PRNG` (R40). -/
  prng : Word
  /-- `run` (R41). -/
  run : Run
  /-- `plat` (R41). -/
  plat : Word
  /-- `gidx` (R41). -/
  gidx : Word
  /-- `sidx` (R41). -/
  sidx : Word
  /-- `bph` (R41). -/
  bph : BytePhase
  /-- `OUT`, oldest byte first (R23). -/
  out : List OutByte
  /-- The model's own: the configuration, constant (R5, R25, log 5). -/
  cfg : Config
  /-- The model's own: the agents' coming moves (R10, R25, log 1). -/
  schedule : List Event
  /-- The model's own: the level of `out_ready` (R24, R161, log 3). -/
  outReady : Bool
  /-- The model's own: the answer to the last bus transaction (R24, R60, log 4). -/
  reply : Option BusReply
  deriving DecidableEq, Repr

/-- The draws `0 .. 2^32 - 2` as the words `1 .. 2^32 - 1` (R40, R44). -/
def prngOfDraw (draw : Fin 4294967295) : Word := BitVec.ofNat 32 (draw.val + 1)

/-- The state right after reset (R44, R220). `PRNG` is the free draw (log 6); `CYC`, which R44 leaves
unspecified and 93 I7 allows to be zero, lists nothing (log 8); the model's own fields have the
values of logs 1, 3, 4, 5 and `OUT` is empty (log 13). -/
def State.reset : State where
  done := false
  err := false
  ovr := false
  errcode := 0
  errcmd := 0
  ctrl := 0
  freq := 0
  amp := 0
  dur := 0
  duty := 50
  seed := 0
  period := 0
  nsamp := 0
  cyc := []
  prng := prngOfDraw Config.powerUpDraw
  run := .idle
  plat := 0
  gidx := 0
  sidx := 0
  bph := .low
  out := []
  cfg := Config.standard
  schedule := []
  outReady := false
  reply := none

end Sys2Proof.Machine
end

