-- ==== Sys2Proof/Machine/Operands.lean ====
section
/-! DEFINITION. Operand decoding (R84) and the integer arithmetic over operands (R8, R112). -/

namespace Sys2Proof.Machine

/-- `SR`, the sample rate in hertz (R5). -/
def sampleRate : Nat := 44100

/-- One, in the fraction of `FREQ`, `AMP` and `DUR` (R5 `FRAC`, R7). -/
def one16 : Nat := 65536

/-- `clamp(q, lo, hi)` (R8). -/
def clamp {α : Type} [LT α] [DecidableLT α] (q lo hi : α) : α :=
  if q < lo then lo else if hi < q then hi else q

/-- `F = zext_32(FREQ)` (R84, R101). -/
def State.freqPattern (s : State) : Nat := s.freq.toNat

/-- `Ac = clamp(sext_32(AMP), 0, 65536)` of a pattern (R84, R102). -/
def ampClamped (amp : Word) : Int := clamp amp.toInt 0 65536

/-- `a = Ac / 65536` of a pattern (R84, R102). -/
def amplitude (amp : Word) : Rat := (ampClamped amp : Rat) / 65536

/-- `dc = DUTY[7:0]` (R84, R108). -/
def State.dutyPercent (s : State) : Nat := s.duty.toNat

/-- `D = zext_32(DUR)` (R84, R156). -/
def State.durPattern (s : State) : Nat := s.dur.toNat

/-- The frequencies R101 lets through: `1 <= F < 44100 * 65536`. -/
def freqLegal (f : Nat) : Bool := decide (f ≠ 0) && decide (f < sampleRate * one16)

/-- `p = floor(44100 * 65536 / F)` (R101). -/
def periodOf (f : Nat) : Nat := sampleRate * one16 / f

/-- The duty cycles R101 lets through for a pulse: 1 to 100. -/
def dutyLegal (dc : Nat) : Bool := decide (1 ≤ dc) && decide (dc ≤ 100)

/-- `threshold = floor(dc * p / 100)` (R108). -/
def thresholdOf (dc p : Nat) : Nat := dc * p / 100

/-- `N = floor(44100 * D / 65536)` (R156). -/
def sampleCountOf (d : Nat) : Nat := sampleRate * d / one16

/-- The seed a register value stands for: 0 is replaced by 1 (R84, R133). -/
def seedValue (seed : Word) : Word := if seed = 0 then 1 else seed

end Sys2Proof.Machine
end

