-- ==== Sys2Proof/WellFormed.lean ====
section
/-! DEFINITION. What makes a command word, an instruction and a configuration well formed. An
instruction has no operand, so its one check is that its fields are among those R82 leaves legal. -/

namespace Sys2Proof

/-- R80: `RSV` must be 0. -/
def Cmdw.reservedOk (c : Cmdw) : Bool := c.rsv == 0

/-- R82: `MAJ = 5 .. 15` is illegal. -/
def Cmdw.majorOk (c : Cmdw) : Bool := decide (c.major.toNat ≤ 4)

/-- R82, R85: `MAJ = 1` has the kinds 0 to 4; every other class has `MIN = 0` only. -/
def Cmdw.minorOk (c : Cmdw) : Bool :=
  if c.major = 1 then decide (c.minor.toNat ≤ 4) else c.minor == 0

/-- The words R82 does not call illegal. -/
def Cmdw.wellFormed (c : Cmdw) : Bool := c.reservedOk && c.majorOk && c.minorOk

/-- An instruction is well formed when its fields are. -/
def Instr.wellFormed (i : Instr) : Bool := i.cmdw.wellFormed

/-- R5: `CYCLE_DEPTH` is an integer from 1 to 2^32 - 1. -/
def Config.depthOk (c : Config) : Bool := decide (1 ≤ c.cycleDepth) && decide (c.cycleDepth < 4294967296)

/-- R5 and the table of 92_eei_decisions.md: `0 <= SIN_EPS < 2^-16`. -/
def Config.epsOk (c : Config) : Bool := decide (0 ≤ c.sinEps) && decide (c.sinEps < 1 / 65536)

/-- An admissible configuration. -/
def Config.wellFormed (c : Config) : Bool := c.depthOk && c.epsOk

end Sys2Proof
end

