-- ==== Sys2Proof/Decode.lean ====
section
/-! DEFINITION. Decoding a command word (R80 to R86) and encoding a command. Decoding is total and
refuses every illegal word with the reason R82 gives. -/

namespace Sys2Proof

/-- Why a word is not a command (R82). -/
inductive Illegal where
  /-- `RSV` is not 0. -/
  | reservedNotZero
  /-- `MAJ` is 0, 2, 3 or 4 and `MIN` is not 0. -/
  | minorNotZero
  /-- `MAJ` is 1 and `MIN` is 5 or more. -/
  | kindOutOfRange
  /-- `MAJ` is 5 or more. -/
  | majorOutOfRange
  deriving DecidableEq, Repr

/-- The fields of a word: `w[31:8]`, `w[7:4]`, `w[3:0]` (R80). -/
def fieldsOf (w : Word) : Cmdw :=
  { rsv := w.extractLsb' 8 24, major := w.extractLsb' 4 4, minor := w.extractLsb' 0 4 }

/-- The word with given fields (R80). -/
def wordOf (c : Cmdw) : Word := c.rsv ++ c.major ++ c.minor

/-- The opcode map over the two opcode fields (R81, R82, R85). -/
def decodeFields (major minor : Nat) : Except Illegal Instr :=
  match major, minor with
  | 0, 0 => .ok .nop
  | 1, 0 => .ok .genSine
  | 1, 1 => .ok .genTri
  | 1, 2 => .ok .genSaw
  | 1, 3 => .ok .genPulse
  | 1, 4 => .ok .genNoise
  | 1, _ => .error .kindOutOfRange
  | 2, 0 => .ok .pack
  | 3, 0 => .ok .seed
  | 4, 0 => .ok .clrerr
  | 0, _ => .error .minorNotZero
  | 2, _ => .error .minorNotZero
  | 3, _ => .error .minorNotZero
  | 4, _ => .error .minorNotZero
  | _, _ => .error .majorOutOfRange

/-- Decode a command word, all 32 bits compared (R81, R82). -/
def decode (w : Word) : Except Illegal Instr :=
  if (fieldsOf w).rsv = 0 then
    decodeFields (fieldsOf w).major.toNat (fieldsOf w).minor.toNat
  else
    .error .reservedNotZero

/-- The column `word` of R81. -/
def encode : Instr → Word
  | .nop => 0x00000000
  | .genSine => 0x00000010
  | .genTri => 0x00000011
  | .genSaw => 0x00000012
  | .genPulse => 0x00000013
  | .genNoise => 0x00000014
  | .pack => 0x00000020
  | .seed => 0x00000030
  | .clrerr => 0x00000040

/-- The word an instruction of `nbits` bits with value `w` is written to `CMD` as. The register bus
moves whole words and has no byte order (R67), so the table's numbering is the bus's; bits above
`nbits` are 0 (log 16). -/
def tableWord (nbits w : Nat) : Word := BitVec.ofNat 32 (w % 2 ^ nbits)

/-- What the decoder reads from a row of the opcode table; a command has 32 bits (R86). -/
def decodeTableWord (nbits w : Nat) : Option Instr :=
  if nbits ≤ 32 then
    match decode (tableWord nbits w) with
    | .ok i => some i
    | .error _ => none
  else
    none

end Sys2Proof
end

