-- ==== Sys2Proof/Machine/Flags.lean ====
section
/-! DEFINITION. The status flags and everything computed from them: `STATUS` (R33), the read values of
`ERRCODE`, `CTRL` and `DUTY` with their reserved bits 0 (R43), and the interrupt output (R42). -/

namespace Sys2Proof.Machine

/-- `STATUS.BUSY`: equals `run != IDLE` (R33). -/
def State.busy (s : State) : Bool :=
  match s.run with
  | .idle => false
  | .gen _ => true
  | .pack => true

/-- `STATUS.CYCV`: equals `PERIOD != 0` (R33). -/
def State.cycv (s : State) : Bool := s.period != 0

/-- `CTRL.IE_DONE` (R36). -/
def State.ieDone (s : State) : Bool := s.ctrl.getLsbD 0

/-- `CTRL.IE_ERR` (R36). -/
def State.ieErr (s : State) : Bool := s.ctrl.getLsbD 1

/-- `STATUS` as the host reads it: bits 0 to 4, the rest 0 (R33). -/
def State.statusWord (s : State) : Word :=
  (BitVec.ofBool s.cycv ++ BitVec.ofBool s.ovr ++ BitVec.ofBool s.err ++ BitVec.ofBool s.done
    ++ BitVec.ofBool s.busy).setWidth 32

/-- `ERRCODE` as the host reads it (R34). -/
def State.errcodeWord (s : State) : Word := s.errcode.setWidth 32

/-- `CTRL` as the host reads it (R36). -/
def State.ctrlWord (s : State) : Word := s.ctrl.setWidth 32

/-- `DUTY` as the host reads it (R30). -/
def State.dutyWord (s : State) : Word := s.duty.setWidth 32

/-- The interrupt output, a level (R42, R199). -/
def State.irq (s : State) : Bool := (s.done && s.ieDone) || (s.err && s.ieErr)

/-- `ERRCODE[3:0]` of each error (R190). -/
def errorCode : BlockError → BitVec 4
  | .invalidFrequency => 1
  | .invalidDutyCycle => 2
  | .emptyCycle => 3
  | .periodTooLong => 4
  | .illegalCommand => 5

end Sys2Proof.Machine
end

