-- ==== Sys2Proof/Machine/Ops.lean ====
section
/-! DEFINITION. The named operations over the state: the cycle RAM, the flag and record updates, the
acceptance every command goes through (R65, R100), error entry (R194) and the return from it (R181),
and reset (R220). -/

namespace Sys2Proof.Machine

/-! ### The cycle RAM -/

/-- What a byte nothing has written reads as. R44 and 93 I7 leave it open and allow zero; no rule lets
it be observed. DESIGN CHOICE, unsafe (log 8). -/
def unlistedByte : Byte := 0

/-- The byte at an address. -/
def readByte : Memory → Nat → Byte
  | [], _ => unlistedByte
  | (a, v) :: rest, i => if a = i then v else readByte rest i

/-- Store a byte, keeping the addresses rising and listing no byte that reads as unlisted. -/
def writeByte : Memory → Nat → Byte → Memory
  | [], i, v => if v = unlistedByte then [] else [(i, v)]
  | (a, w) :: rest, i, v =>
    if a < i then (a, w) :: writeByte rest i v
    else if a = i then (if v = unlistedByte then rest else (i, v) :: rest)
    else if v = unlistedByte then (a, w) :: rest
    else (i, v) :: (a, w) :: rest

/-- The canonical form of stored memory. -/
def Memory.wf : Memory → Bool
  | [] => true
  | (a, v) :: rest => v != unlistedByte && rest.all (fun c => decide (a < c.1)) && Memory.wf rest

/-- Every listed address belongs to one of `depth` entries of two bytes. -/
def Memory.within (depth : Nat) (m : Memory) : Bool := m.all (fun c => decide (c.1 < 2 * depth))

/-- `CYC[i]` as a 16-bit pattern (R9, R39); the byte order of the storage is log 9. -/
def readEntry (m : Memory) (i : Nat) : Half := readByte m (2 * i + 1) ++ readByte m (2 * i)

/-- `CYC[i] <- q` (R9, R39). -/
def writeEntry (m : Memory) (i : Nat) (q : Half) : Memory :=
  writeByte (writeByte m (2 * i) (q.extractLsb' 0 8)) (2 * i + 1) (q.extractLsb' 8 8)

/-! ### Updates of the state, each under one name -/

/-- A dropped write leaves its mark and nothing else (R65, R100, R205). -/
def State.dropWrite (s : State) : State := { s with ovr := true }

/-- The command is accepted (R100). -/
def State.accept (s : State) : State := { s with done := false }

/-- Completion without error (R33). -/
def State.markDone (s : State) : State := { s with done := true }

/-- The error record and the overrun mark are cleared (R181). -/
def State.clearRecord (s : State) : State :=
  { s with err := false, ovr := false, errcode := 0, errcmd := 0 }

/-- A generation of period `p` starts (R101). -/
def State.startGen (s : State) (k : Kind) (p : Word) : State :=
  { s with period := 0, plat := p, gidx := 0, run := .gen k }

/-- A generation completes, in the step of its last sample (R104). -/
def State.finishGen (s : State) : State := { s with period := s.plat, run := .idle, done := true }

/-- `NSAMP <- N` (R155). -/
def State.setCount (s : State) (n : Word) : State := { s with nsamp := n }

/-- Streaming starts at sample 0 (R155, R164). -/
def State.startPack (s : State) : State := { s with sidx := 0, bph := .low, run := .pack }

/-- Streaming completes, in the step of its last byte (R158). -/
def State.finishPack (s : State) : State := { s with run := .idle, done := true }

/-- `OutByte(b, last)` (R9, R23). -/
def State.emit (s : State) (b : OutByte) : State := { s with out := s.out ++ [b] }

/-- `PRNG <- x` (R40). -/
def State.setPrng (s : State) (x : Word) : State := { s with prng := x }

/-- The bus answers the host (R60). -/
def State.answer (s : State) (r : BusReply) : State := { s with reply := some r }

/-! ### Error entry and return -/

/-- The command words whose failure invalidates the held cycle (R194). -/
def isGenWord (w : Word) : Bool :=
  w == 0x10 || w == 0x11 || w == 0x12 || w == 0x13 || w == 0x14

/-- `raise E(w)`: error entry (R194). There is no control transfer; the record is the entry. -/
def State.raiseError (s : State) (e : BlockError) (w : Word) : State :=
  { s with
    err := true
    errcode := errorCode e
    errcmd := w
    period := if isGenWord w then 0 else s.period }

/-- The return from an error (R181, R200): the record goes, nothing is restored. -/
def State.returnFromError (s : State) : State := s.clearRecord.markDone

/-! ### Acceptance of a command -/

/-- The effect of a legal write of the command word `w` to `CMD`, `act` being what the command does once
accepted. While `BUSY` the write is dropped (R65, first line); while `ERR` every word but `CLRERR` is
dropped (R100, R200); otherwise `DONE <- 0` and the command acts (R100) (log 15). -/
def acceptCommand (w : Word) (act : State → State) (s : State) : State :=
  if s.busy then s.dropWrite
  else if s.err && w != 0x00000040 then s.dropWrite
  else act s.accept

/-! ### Reset -/

/-- One reset with its draw (R220, R44): every register at its reset value, `PRNG` the draw, `OUT`
unchanged (R23, R222). The configuration, the coming moves and the consumer's level are not the
block's and stay; no transaction has been answered since (log 4). -/
def State.resetBlock (s : State) (draw : Fin 4294967295) : State :=
  { State.reset with
    prng := prngOfDraw draw
    out := s.out
    cfg := s.cfg
    schedule := s.schedule
    outReady := s.outReady }

end Sys2Proof.Machine
end

