-- ==== Sys2Proof/Machine/Generate.lean ====
section
/-! DEFINITION. What the five `GEN_*` commands share at issue: the checks in the order of R198 and the
start of the generation (R101). -/

namespace Sys2Proof.Machine

/-- `gen_issue(k, w)` (R101): frequency, then period, then, for a pulse, the duty cycle. -/
def genIssue (k : Kind) (w : Word) (s : State) : State :=
  if freqLegal s.freqPattern = false then s.raiseError .invalidFrequency w
  else if s.cfg.cycleDepth < periodOf s.freqPattern then s.raiseError .periodTooLong w
  else if k = .pulse ∧ dutyLegal s.dutyPercent = false then s.raiseError .invalidDutyCycle w
  else s.startGen k (BitVec.ofNat 32 (periodOf s.freqPattern))

end Sys2Proof.Machine
end

