-- ==== Sys2Proof/Machine/Noise.lean ====
section
/-! DEFINITION. The pseudo-random generator (R130, R131), `GEN_NOISE` (R132) and `SEED` (R133). -/

namespace Sys2Proof.Machine

/-- `xs32(x)` (R130): left shifts lose the bits past bit 31, the right shift is logical. -/
def xs32 (x : Word) : Word :=
  let y := x ^^^ (x <<< 13)
  let z := y ^^^ (y >>> 17)
  z ^^^ (z <<< 5)

/-- `u = sext_16(PRNG[31:16]) / 32768` of a generator state (R131). -/
def uniformOf (x : Word) : Rat := ((x.extractLsb' 16 16).toInt : Rat) / 32768

/-- `a * next_uniform()` from the generator state before the draw: step first, then read (R131, R132). -/
def noiseSample (a : Rat) (prng : Word) : Rat := a * uniformOf (xs32 prng)

/-- `GEN_NOISE` (R132, R101). -/
def execGenNoise (s : State) : Host.Outcome State Fault Refusal :=
  .next (acceptCommand 0x00000014 (genIssue .noise 0x00000014) s)

/-- `exec_SEED` once accepted (R133). -/
def seedEffect (s : State) : State := (s.setPrng (seedValue s.seed)).markDone

/-- `SEED` (R133). -/
def execSeed (s : State) : Host.Outcome State Fault Refusal :=
  .next (acceptCommand 0x00000030 seedEffect s)

end Sys2Proof.Machine
end

