-- ==== Sys2Proof/Machine/Sine.lean ====
section
/-! DEFINITION. The sine function of the datapath (R109): the implementation's free `SIN_FN`, the
reference instance `SIN_REF` of 93_implementation_defined.md G2, and, because a free value of a type
needs the type to have one, a computable function that meets the contract for every `SIN_EPS`. -/

namespace Sys2Proof.Machine

/-! ### The reference instance -/

/-- `PI_Q` (93 G2). -/
def piQ : Rat := 3141592653589793 / 1000000000000000

/-- The quarter-turn reduction of 93 G2: `sin(2πx) = sin(2πy)` with `-1/4 <= y <= 1/4`. -/
def sinTurn (x : Rat) : Rat :=
  if x < 1 / 4 then x else if x < 3 / 4 then 1 / 2 - x else x - 1

/-- The sine series of 93 G2 up to the fifteenth power. -/
def sinSeries (θ : Rat) : Rat :=
  θ - θ ^ 3 / 6 + θ ^ 5 / 120 - θ ^ 7 / 5040 + θ ^ 9 / 362880 - θ ^ 11 / 39916800
    + θ ^ 13 / 6227020800 - θ ^ 15 / 1307674368000

/-- `SIN_REF(x)`, `x` in turns (93 G2): one admissible `SIN_FN`, for simulation. -/
def sinRef (x : Rat) : Rat := sinSeries (2 * piQ * sinTurn x)

/-! ### A function within any positive bound of the sine -/

/-- The first `n` terms of the sine series. -/
def sinPartial : Nat → Rat → Rat
  | 0, _ => 0
  | n + 1, θ => sinPartial n θ + (-1) ^ n * θ ^ (2 * n + 1) / (Nat.factorial (2 * n + 1) : Rat)

/-- The first `n` factors of Wallis's product for half of pi. -/
def wallis : Nat → Rat
  | 0 => 1
  | n + 1 =>
    wallis n * ((2 * (n : Rat) + 2) / (2 * n + 1) * ((2 * (n : Rat) + 2) / (2 * n + 3)))

/-- The sine of `x` turns to within `9/n`. -/
def sinApprox (n : Nat) (x : Rat) : Rat := clamp (sinPartial n (4 * wallis n * sinTurn x)) (-1) 1

/-- How many terms bring the error below `eps`. -/
def sinTerms (eps : Rat) : Nat := ⌈9 / eps⌉₊ + 1

/-- A clamped value lies between its bounds. -/
theorem clamp_range {q lo hi : Rat} (h : lo ≤ hi) : lo ≤ clamp q lo hi ∧ clamp q lo hi ≤ hi := by
  unfold clamp
  split_ifs with h1 h2
  · exact ⟨le_refl _, h⟩
  · exact ⟨h, le_refl _⟩
  · exact ⟨not_lt.1 h1, not_lt.1 h2⟩

/-- Clamping to an interval brings a number no farther from a point of the interval. -/
theorem clamp_near {q : Rat} {r : ℝ} (h1 : -1 ≤ r) (h2 : r ≤ 1) :
    |((clamp q (-1) 1 : Rat) : ℝ) - r| ≤ |((q : Rat) : ℝ) - r| := by
  unfold clamp
  split_ifs with h3 h4
  · have : ((q : Rat) : ℝ) < -1 := by exact_mod_cast h3
    push_cast
    rw [abs_of_nonpos (by linarith), abs_of_nonpos (by linarith)]
    linarith
  · have : (1 : ℝ) < ((q : Rat) : ℝ) := by exact_mod_cast h4
    push_cast
    rw [abs_of_nonneg (by linarith), abs_of_nonneg (by linarith)]
    linarith
  · exact le_refl _

/-- The odd terms of the exponential series at an imaginary point are the sine series. -/
theorem exp_sum_im (θ : Rat) (n : Nat) :
    (∑ m ∈ Finset.range (2 * n + 1),
      (((θ : ℝ) : ℂ) * Complex.I) ^ m / (Nat.factorial m : ℂ)).im = ((sinPartial n θ : Rat) : ℝ) := by
  induction n with
  | zero => simp [sinPartial]
  | succ n ih =>
    have ev : ∀ m, Complex.I ^ (2 * m) = (((-1 : ℝ) ^ m : ℝ) : ℂ) := fun m => by
      rw [pow_mul, Complex.I_sq]; push_cast; rfl
    rw [show 2 * (n + 1) + 1 = 2 * n + 1 + 1 + 1 by ring, Finset.sum_range_succ, Finset.sum_range_succ,
      Complex.add_im, Complex.add_im, ih]
    have e1 : ((((θ : ℝ) : ℂ) * Complex.I) ^ (2 * n + 1) / (Nat.factorial (2 * n + 1) : ℂ)) =
        (((θ : ℝ) ^ (2 * n + 1) * (-1) ^ n / (Nat.factorial (2 * n + 1) : ℝ) : ℝ) : ℂ) * Complex.I := by
      rw [mul_pow, pow_succ Complex.I, ev]; push_cast; ring
    have e2 : ((((θ : ℝ) : ℂ) * Complex.I) ^ (2 * n + 1 + 1) / (Nat.factorial (2 * n + 1 + 1) : ℂ)) =
        (((θ : ℝ) ^ (2 * n + 2) * (-1) ^ (n + 1) / (Nat.factorial (2 * n + 2) : ℝ) : ℝ) : ℂ) := by
      rw [mul_pow, show 2 * n + 1 + 1 = 2 * (n + 1) by ring, ev,
        show 2 * (n + 1) = 2 * n + 2 by ring]; push_cast; ring
    rw [e1, e2, Complex.im_ofReal_mul, Complex.I_im, Complex.ofReal_im, sinPartial]
    push_cast
    ring

/-- The first `n` terms are within twice the next term of the sine. -/
theorem sinPartial_near {θ : Rat} {n : Nat} (hn : 1 ≤ n) (h : |((θ : Rat) : ℝ)| ≤ 2) :
    |((sinPartial n θ : Rat) : ℝ) - Real.sin ((θ : Rat) : ℝ)| ≤
      |((θ : Rat) : ℝ)| ^ (2 * n + 1) / (Nat.factorial (2 * n + 1)) * 2 := by
  have hnorm : ‖((((θ : Rat) : ℝ) : ℂ)) * Complex.I‖ = |((θ : Rat) : ℝ)| := by
    rw [norm_mul, Complex.norm_I, mul_one, Complex.norm_real, Real.norm_eq_abs]
  have hb := Complex.exp_bound' (x := (((θ : Rat) : ℝ) : ℂ) * Complex.I) (n := 2 * n + 1) (by
    have : (1 : ℝ) ≤ n := by exact_mod_cast hn
    rw [hnorm, div_le_iff₀ (by positivity)]
    push_cast
    linarith)
  rw [hnorm] at hb
  refine le_trans (le_of_eq ?_) ((Complex.abs_im_le_norm _).trans hb)
  rw [Complex.sub_im, Complex.exp_ofReal_mul_I_im, exp_sum_im, abs_sub_comm]

/-- The reduced argument lies in a quarter turn either side of 0. -/
theorem sinTurn_range {x : Rat} (h0 : 0 ≤ x) (h1 : x < 1) : |sinTurn x| ≤ 1 / 4 := by
  unfold sinTurn
  rw [abs_le]
  split_ifs <;> constructor <;> linarith

/-- The reduction keeps the sine. -/
theorem sin_sinTurn (x : Rat) :
    Real.sin (2 * Real.pi * ((sinTurn x : Rat) : ℝ)) = Real.sin (2 * Real.pi * (x : ℝ)) := by
  unfold sinTurn
  split_ifs
  · rfl
  · rw [← Real.sin_pi_sub]; congr 1; push_cast; ring
  · rw [← Real.sin_sub_two_pi (2 * Real.pi * (x : ℝ))]; congr 1; push_cast; ring

/-- Reducing with `p` for pi and then taking the sine is off by at most half of `p`'s error. -/
theorem sin_reduced_near {p x : Rat} (h0 : 0 ≤ x) (h1 : x < 1) :
    |Real.sin ((2 * p * sinTurn x : Rat) : ℝ) - Real.sin (2 * Real.pi * (x : ℝ))| ≤
      |((p : Rat) : ℝ) - Real.pi| / 2 := by
  have hy : |((sinTurn x : Rat) : ℝ)| ≤ ((1 / 4 : Rat) : ℝ) := by
    rw [← Rat.cast_abs]; exact Rat.cast_le.2 (sinTurn_range h0 h1)
  rw [← sin_sinTurn]
  refine (Real.abs_sin_sub_sin_le _ _).trans ?_
  push_cast at hy ⊢
  rw [show 2 * ((p : Rat) : ℝ) * ((sinTurn x : Rat) : ℝ) - 2 * Real.pi * ((sinTurn x : Rat) : ℝ) =
    2 * ((sinTurn x : Rat) : ℝ) * (((p : Rat) : ℝ) - Real.pi) by ring, abs_mul, abs_mul, abs_two]
  nlinarith [abs_nonneg (((p : Rat) : ℝ) - Real.pi)]

/-- The rational product is Wallis's. -/
theorem wallis_eq (n : Nat) : ((wallis n : Rat) : ℝ) = Real.Wallis.W n := by
  induction n with
  | zero => simp [wallis, Real.Wallis.W]
  | succ n ih => rw [Real.Wallis.W_succ, ← ih, wallis]; push_cast; ring

/-- Twice the product is below pi by at most `2/n`. -/
theorem wallis_near {n : Nat} (hn : 1 ≤ n) :
    |((2 * wallis n : Rat) : ℝ) - Real.pi| ≤ 2 / n ∧ 0 ≤ ((wallis n : Rat) : ℝ) ∧
      ((wallis n : Rat) : ℝ) ≤ 2 := by
  have hn' : (1 : ℝ) ≤ n := by exact_mod_cast hn
  have h1 := Real.Wallis.W_le n
  have h2 := Real.Wallis.le_W n
  have h3 := Real.pi_le_four
  have h4 := Real.pi_pos
  push_cast
  rw [wallis_eq]
  have h5 : (2 * (n : ℝ) + 1) / (2 * n + 2) = 1 - 1 / (2 * n + 2) := by field_simp; ring
  rw [h5] at h2
  have h6 : 1 / (2 * (n : ℝ) + 2) * (Real.pi / 2) ≤ 1 / n := by
    rw [div_mul_eq_mul_div, div_le_div_iff₀ (by positivity) (by positivity)]
    nlinarith
  have h7 : 1 / (2 * (n : ℝ) + 2) ≤ 1 := by
    rw [div_le_one (by positivity)]; linarith
  refine ⟨?_, (Real.Wallis.W_pos n).le, by linarith⟩
  rw [abs_of_nonpos (by linarith), show (2 : ℝ) / n = 2 * (1 / n) by ring]
  linarith

/-- The factorial outgrows the power. -/
theorem pow_le_factorial {n : Nat} (hn : 1 ≤ n) : 4 ^ n * n ≤ 2 * Nat.factorial (2 * n + 1) := by
  induction n, hn using Nat.le_induction with
  | base => decide
  | succ n hn ih =>
    rw [show 2 * (n + 1) + 1 = 2 * n + 1 + 1 + 1 by ring, Nat.factorial_succ, Nat.factorial_succ, pow_succ]
    have h : 4 * (n + 1) ≤ n * ((2 * n + 1 + 1 + 1) * (2 * n + 1 + 1)) :=
      calc 4 * (n + 1) ≤ (2 * n + 1 + 1 + 1) * (2 * n + 1 + 1) := by nlinarith
        _ ≤ _ := Nat.le_mul_of_pos_left _ hn
    have h2 : 4 ^ n * n * (4 * (n + 1)) ≤
        2 * Nat.factorial (2 * n + 1) * (n * ((2 * n + 1 + 1 + 1) * (2 * n + 1 + 1))) :=
      Nat.mul_le_mul ih h
    refine Nat.le_of_mul_le_mul_left ?_ hn
    calc n * (4 ^ n * 4 * (n + 1)) = 4 ^ n * n * (4 * (n + 1)) := by ring
      _ ≤ _ := h2
      _ = n * (2 * ((2 * n + 1 + 1 + 1) * ((2 * n + 1 + 1) * Nat.factorial (2 * n + 1)))) := by ring

/-- The error of `sinApprox`. -/
theorem sinApprox_near {x : Rat} {n : Nat} (hn : 1 ≤ n) (h0 : 0 ≤ x) (h1 : x < 1) :
    |((sinApprox n x : Rat) : ℝ) - Real.sin (2 * Real.pi * (x : ℝ))| ≤ 9 / n := by
  have hn' : (1 : ℝ) ≤ n := by exact_mod_cast hn
  obtain ⟨hw, hw0, hw2⟩ := wallis_near hn
  have hr := sin_reduced_near (p := 2 * wallis n) h0 h1
  rw [show 2 * (2 * wallis n) * sinTurn x = 4 * wallis n * sinTurn x by ring] at hr
  have hθ : |((4 * wallis n * sinTurn x : Rat) : ℝ)| ≤ 2 := by
    have hy : |((sinTurn x : Rat) : ℝ)| ≤ ((1 / 4 : Rat) : ℝ) := by
      rw [← Rat.cast_abs]; exact Rat.cast_le.2 (sinTurn_range h0 h1)
    push_cast at hy ⊢
    rw [abs_mul, abs_mul, abs_of_nonneg hw0, abs_of_pos (by norm_num : (0 : ℝ) < 4)]
    nlinarith [abs_nonneg ((sinTurn x : Rat) : ℝ)]
  have hs := sinPartial_near hn hθ
  have hf : |((4 * wallis n * sinTurn x : Rat) : ℝ)| ^ (2 * n + 1) / (Nat.factorial (2 * n + 1)) * 2 ≤
      8 / n := by
    have hp : |((4 * wallis n * sinTurn x : Rat) : ℝ)| ^ (2 * n + 1) ≤ 2 ^ (2 * n + 1) :=
      pow_le_pow_left₀ (abs_nonneg _) hθ _
    have hq : (4 : ℝ) ^ n * n ≤ 2 * (Nat.factorial (2 * n + 1) : ℝ) := by
      exact_mod_cast pow_le_factorial hn
    have h2 : (2 : ℝ) ^ (2 * n + 1) = 4 ^ n * 2 := by rw [pow_succ, pow_mul]; norm_num
    have hpos : (0 : ℝ) < Nat.factorial (2 * n + 1) := by exact_mod_cast Nat.factorial_pos _
    rw [h2] at hp
    rw [div_mul_eq_mul_div, div_le_div_iff₀ hpos (by linarith)]
    nlinarith
  refine (clamp_near (Real.neg_one_le_sin _) (Real.sin_le_one _)).trans ?_
  have ht := abs_sub_le ((sinPartial n (4 * wallis n * sinTurn x) : Rat) : ℝ)
    (Real.sin ((4 * wallis n * sinTurn x : Rat) : ℝ)) (Real.sin (2 * Real.pi * (x : ℝ)))
  have h9 : (9 : ℝ) / n = 8 / n + 2 / n / 2 := by ring
  rw [h9]
  linarith

/-- Every term of the series is 0 at 0. -/
theorem sinPartial_zero (n : Nat) : sinPartial n 0 = 0 := by
  induction n with
  | zero => rfl
  | succ n ih => simp [sinPartial, ih]

/-- A function that meets the contract, for each bound: the contract can be met. -/
def sinWitness (eps : Rat) : SinFunction eps :=
  ⟨sinApprox (sinTerms eps), by
    refine ⟨?_, fun x _ _ => abs_le.2 (clamp_range (by norm_num)), fun he x h0 h1 => ?_⟩
    · norm_num [sinApprox, sinTurn, sinPartial_zero, clamp]
    · refine (sinApprox_near (Nat.le_add_left 1 _) h0 h1).trans ?_
      have hc : (9 / eps : Rat) ≤ ((⌈9 / eps⌉₊ + 1 : Nat) : Rat) := by
        push_cast; linarith [Nat.le_ceil (9 / eps)]
      have hc' : (9 : ℝ) / ((eps : Rat) : ℝ) ≤ ((⌈9 / eps⌉₊ + 1 : Nat) : ℝ) := by exact_mod_cast hc
      have he' : (0 : ℝ) < ((eps : Rat) : ℝ) := by exact_mod_cast he
      have hn : (0 : ℝ) < ((⌈9 / eps⌉₊ + 1 : Nat) : ℝ) := by positivity
      rw [div_le_iff₀ he'] at hc'
      rw [div_le_iff₀ hn]
      linarith⟩

/-! ### The function of the datapath -/

/-- `SIN_FN(x)` (R5, R109): the implementation's free function, of which the contract is all that is
known (log 10). -/
def sinFn (cfg : Config) (x : Rat) : Rat := (@Config.sinRaw cfg.sinEps ⟨sinWitness cfg.sinEps⟩).1 x

end Sys2Proof.Machine
end

