-- ==== Sys2Proof/Machine/Oscillator.lean ====
section
/-! DEFINITION. The four deterministic waveforms: their commands (R105 to R108) and their exact rational
samples. `F` is the `FREQ` pattern, `p` the period, `a` the clamped amplitude, `t` the sample index. -/

namespace Sys2Proof.Machine

/-! ### The samples -/

/-- `x_t = F*t / (65536*SR)`, in turns (R105). -/
def phaseTurns (F t : Nat) : Rat := ((F * t : Nat) : Rat) / ((one16 * sampleRate : Nat) : Rat)

/-- `GEN_SINE`'s sample (R105). -/
def sineSample (cfg : Config) (F : Nat) (a : Rat) (t : Nat) : Rat := a * sinFn cfg (phaseTurns F t)

/-- `GEN_TRI`'s sample (R106), with `half = p/2` the real quotient. -/
def triSample (p : Nat) (a : Rat) (t : Nat) : Rat :=
  a / ((p : Rat) / 2) * ((p : Rat) / 2 - |(t : Rat) - (p : Rat) / 2| * 2 - 1)

/-- `GEN_SAW`'s sample (R107). -/
def sawSample (F : Nat) (a : Rat) (t : Nat) : Rat :=
  a * (((2 * F * t : Nat) : Rat) / ((one16 * sampleRate : Nat) : Rat) - 1)

/-- `GEN_PULSE`'s sample (R108). -/
def pulseSample (dc p : Nat) (a : Rat) (t : Nat) : Rat := if t < thresholdOf dc p then a else -a

/-! ### The commands -/

/-- `GEN_SINE` (R105, R101): the write of its word to `CMD`. -/
def execGenSine (s : State) : Host.Outcome State Fault Refusal :=
  .next (acceptCommand 0x00000010 (genIssue .sine 0x00000010) s)

/-- `GEN_TRI` (R106, R101). -/
def execGenTri (s : State) : Host.Outcome State Fault Refusal :=
  .next (acceptCommand 0x00000011 (genIssue .tri 0x00000011) s)

/-- `GEN_SAW` (R107, R101). -/
def execGenSaw (s : State) : Host.Outcome State Fault Refusal :=
  .next (acceptCommand 0x00000012 (genIssue .saw 0x00000012) s)

/-- `GEN_PULSE` (R108, R101). -/
def execGenPulse (s : State) : Host.Outcome State Fault Refusal :=
  .next (acceptCommand 0x00000013 (genIssue .pulse 0x00000013) s)

end Sys2Proof.Machine
end

