-- ==== Sys2Proof/Machine/Pack.lean ====
section
/-! DEFINITION. `PACK` (R155, R156) and the bytes it offers (R157 to R160). -/

namespace Sys2Proof.Machine

/-- `pack_issue(w)` once accepted (R155). -/
def packIssue (w : Word) (s : State) : State :=
  if s.period = 0 then s.raiseError .emptyCycle w
  else if sampleCountOf s.durPattern = 0 then (s.setCount 0).markDone
  else (s.setCount (BitVec.ofNat 32 (sampleCountOf s.durPattern))).startPack

/-- `PACK` (R155). -/
def execPack (s : State) : Host.Outcome State Fault Refusal :=
  .next (acceptCommand 0x00000020 (packIssue 0x00000020) s)

/-- The cycle entry of the current output sample, `sidx mod PERIOD` (R157, R158). -/
def State.tileIndex (s : State) : Nat := s.sidx.toNat % s.period.toNat

/-- The byte the block offers next while `run = PACK` (R158, R24 `out_data`, `out_last`). -/
def State.offeredByte (s : State) : OutByte :=
  match s.bph with
  | .low => { byte := (readEntry s.cyc s.tileIndex).extractLsb' 0 8, last := false }
  | .high =>
    { byte := (readEntry s.cyc s.tileIndex).extractLsb' 8 8, last := decide (s.sidx = s.nsamp - 1) }

/-- `out_valid`: a byte is offered (R24, R158). -/
def State.outValid (s : State) : Bool := decide (s.run = .pack)

/-- The two bytes of output sample `n` of `N` (R157, R159, R160), from the cycle held. -/
def sampleBytes (cyc : Memory) (period N n : Nat) : List OutByte :=
  [{ byte := (readEntry cyc (n % period)).extractLsb' 0 8, last := false },
   { byte := (readEntry cyc (n % period)).extractLsb' 8 8, last := decide (n + 1 = N) }]

/-- D0's PcmBuffer: all `2N` bytes of a `PACK`, in order (R159, R160, R162). -/
def pcmBuffer (cyc : Memory) (period N : Nat) : List OutByte :=
  (List.range N).flatMap (sampleBytes cyc period N)

end Sys2Proof.Machine
end

