-- ==== Sys2Proof/Machine/System.lean ====
section
/-! DEFINITION. The system commands `NOP` (R180) and `CLRERR` (R181). -/

namespace Sys2Proof.Machine

/-- `NOP` (R180): once accepted, completion and nothing else. -/
def execNop (s : State) : Host.Outcome State Fault Refusal :=
  .next (acceptCommand 0x00000000 State.markDone s)

/-- `CLRERR` (R181): once accepted, the return from an error. -/
def execClrerr (s : State) : Host.Outcome State Fault Refusal :=
  .next (acceptCommand 0x00000040 State.returnFromError s)

end Sys2Proof.Machine
end

