-- ==== Sys2Proof/Machine/Dispatch.lean ====
section
/-! DEFINITION. One arm per command (R81, R100): `exec i s` is the legal write of `i`'s word to `CMD`. -/

namespace Sys2Proof.Machine

def exec (i : Instr) (s : State) : Host.Outcome State Fault Refusal :=
  match i with
  | .nop => Sys2Proof.Machine.execNop s
  | .genSine => Sys2Proof.Machine.execGenSine s
  | .genTri => Sys2Proof.Machine.execGenTri s
  | .genSaw => Sys2Proof.Machine.execGenSaw s
  | .genPulse => Sys2Proof.Machine.execGenPulse s
  | .genNoise => Sys2Proof.Machine.execGenNoise s
  | .pack => Sys2Proof.Machine.execPack s
  | .seed => Sys2Proof.Machine.execSeed s
  | .clrerr => Sys2Proof.Machine.execClrerr s

end Sys2Proof.Machine
end

