-- ==== Sys2Proof/Machine/Quantizer.lean ====
section
/-! DEFINITION. The quantiser (R8, R150): exact product, round half to even, wrap to 16 bits. -/

namespace Sys2Proof.Machine

/-- `rhe(q)`: to the nearest integer, a tie to the even one (R8). -/
def rhe (q : Rat) : Int :=
  if q - q.floor < 1 / 2 then q.floor
  else if 1 / 2 < q - q.floor then q.floor + 1
  else if q.floor % 2 = 0 then q.floor
  else q.floor + 1

/-- `wrap16(z)` (R8). -/
def wrap16 (z : Int) : Int := (z + 32768) % 65536 - 32768

/-- `Quant16(s)` (R150). -/
def quant16 (s : Rat) : Int := wrap16 (rhe (s * 32767))

/-- The 16-bit two's complement pattern the cycle RAM holds for a sample (R39, R151). -/
def quantPattern (s : Rat) : Half := BitVec.ofInt 16 (quant16 s)

end Sys2Proof.Machine
end

