-- ==== Sys2Proof/Machine/Sequencer.lean ====
section
/-! DEFINITION. The sequencer: the run steps of a generation (R104) and of a stream (R158), and the
real-valued cycle as a pure function of the operands (R104, last sentence). -/

namespace Sys2Proof.Machine

/-- `sample_k(t)` of the running generation (R104 to R108, R132), from the operand registers, which
cannot change while it runs (R41, R65), and the current `PRNG`. -/
def State.sample (s : State) (k : Kind) (t : Nat) : Rat :=
  match k with
  | .sine => sineSample s.cfg s.freqPattern (amplitude s.amp) t
  | .tri => triSample s.plat.toNat (amplitude s.amp) t
  | .saw => sawSample s.freqPattern (amplitude s.amp) t
  | .pulse => pulseSample s.dutyPercent s.plat.toNat (amplitude s.amp) t
  | .noise => noiseSample (amplitude s.amp) s.prng

/-- `PRNG` after one sample of a kind: noise draws once, the others never (R132, R135). -/
def State.prngAfter (s : State) (k : Kind) : Word :=
  match k with
  | .noise => xs32 s.prng
  | _ => s.prng

/-- The sample of the current index is stored and the index advances (R104, without completion). -/
def State.storeSample (s : State) (k : Kind) : State :=
  { s with
    cyc := writeEntry s.cyc s.gidx.toNat (quantPattern (s.sample k s.gidx.toNat))
    prng := s.prngAfter k
    gidx := s.gidx + 1 }

/-- `gen_step` (R104): one sample; the last one completes the generation in the same step. -/
def genStep (k : Kind) (s : State) : Host.Outcome State Fault Refusal :=
  if s.gidx.toNat < s.cfg.cycleDepth then
    if s.gidx + 1 = s.plat then .next (s.storeSample k).finishGen else .next (s.storeSample k)
  else .fault .cycleIndexOutOfRange

/-- The offered byte is handed over and the byte phase advances (R158, without completion). -/
def State.handOver (s : State) : State :=
  match s.bph with
  | .low => { s.emit s.offeredByte with bph := .high }
  | .high => { s.emit s.offeredByte with bph := .low, sidx := s.sidx + 1 }

/-- `pack_step`, the consumer being ready (R158): one byte; the marked one completes the stream. -/
def packStep (s : State) : Host.Outcome State Fault Refusal :=
  if s.period = 0 then .fault .tileOfEmptyCycle
  else if s.tileIndex < s.cfg.cycleDepth then
    if s.offeredByte.last then .next s.handOver.finishPack else .next s.handOver
  else .fault .cycleIndexOutOfRange

/-- The sequencer's turn: no step while idle (R69), a sample while generating (R104), a byte while
streaming to a ready consumer (R158), a hold while the consumer is not ready (R161). -/
def sequencerTurn (s : State) : Host.Outcome State Fault Refusal :=
  match s.run with
  | .idle => .next s
  | .gen k => genStep k s
  | .pack => if s.outReady then packStep s else .next s

/-- A number of turns of the sequencer with nothing in between. -/
def sequencerTurns : Nat → State → Host.Outcome State Fault Refusal
  | 0, s => .next s
  | n + 1, s =>
    match sequencerTurn s with
    | .next t => sequencerTurns n t
    | .fault r => .fault r
    | .refused r => .refused r

/-- D0's Cycle: sample `t` of the cycle a `GEN_*` of kind `k` issued in state `s` produces, before
quantisation (R104, R132: noise sample `t` is the `(t+1)`-th draw after the `PRNG` at issue). -/
def cycleSample (s : State) (k : Kind) (t : Nat) : Rat :=
  match k with
  | .sine => sineSample s.cfg s.freqPattern (amplitude s.amp) t
  | .tri => triSample (periodOf s.freqPattern) (amplitude s.amp) t
  | .saw => sawSample s.freqPattern (amplitude s.amp) t
  | .pulse => pulseSample s.dutyPercent (periodOf s.freqPattern) (amplitude s.amp) t
  | .noise => noiseSample (amplitude s.amp) (xs32^[t] s.prng)

end Sys2Proof.Machine
end

