-- ==== Sys2Proof/Machine/Bus.lean ====
section
/-! DEFINITION. The register bus (R60 to R68): the address map, reads, writes, command issue (R100), and
one move of one agent (R10). -/

namespace Sys2Proof.Machine

/-- The mapped registers of R61. -/
inductive Reg where
  | id
  | cmd
  | status
  | errcode
  | errcmd
  | ctrl
  | freq
  | amp
  | dur
  | duty
  | seed
  | period
  | nsamp
  | cycwin (i : Nat)
  deriving DecidableEq, Repr

/-- The byte offset of a register (R61). -/
def regAddr : Reg → Nat
  | .id => 0x000
  | .cmd => 0x004
  | .status => 0x008
  | .errcode => 0x00C
  | .errcmd => 0x010
  | .ctrl => 0x014
  | .freq => 0x020
  | .amp => 0x024
  | .dur => 0x028
  | .duty => 0x02C
  | .seed => 0x030
  | .period => 0x040
  | .nsamp => 0x044
  | .cycwin i => 0x1000 + 4 * i

/-- The registers of R61 that are not window entries. -/
def namedRegs : List Reg :=
  [.id, .cmd, .status, .errcode, .errcmd, .ctrl, .freq, .amp, .dur, .duty, .seed, .period, .nsamp]

/-- The register at a byte offset; `none` where R61 maps none or the offset is not a word's (R62, R63).
Every offset R61 lists is a multiple of 4 (log 19). -/
def regAt (depth addr : Nat) : Option Reg :=
  match namedRegs.find? (fun r => regAddr r == addr) with
  | some r => some r
  | none =>
    if 0x1000 ≤ addr ∧ addr < 0x1000 + 4 * depth ∧ addr % 4 = 0 then
      some (.cycwin ((addr - 0x1000) / 4))
    else none

/-- The register a legal transaction reaches (R62): a word access to a mapped word. -/
def accessed (depth addr : Nat) (size : AccessSize) : Option Reg :=
  match size with
  | .word => regAt depth addr
  | .half => none
  | .byte => none

/-- `ID_VALUE` (R5, R21). -/
def idValue : Word := 0x434E4F31

/-- `CYCWIN[i]`: the entry sign-extended where it is valid, else 0 (R66). -/
def State.window (s : State) (i : Nat) : Word :=
  if i < s.period.toNat then (readEntry s.cyc i).signExtend 32 else 0

/-- The value of a register as the host reads it (R64, R21 to R38, R66). -/
def State.readReg (s : State) : Reg → Word
  | .id => idValue
  | .cmd => 0
  | .status => s.statusWord
  | .errcode => s.errcodeWord
  | .errcmd => s.errcmd
  | .ctrl => s.ctrlWord
  | .freq => s.freq
  | .amp => s.amp
  | .dur => s.dur
  | .duty => s.dutyWord
  | .seed => s.seed
  | .period => s.period
  | .nsamp => s.nsamp
  | .cycwin i => s.window i

/-- `register <- v with reserved bits forced to 0` for the six writable registers, nothing for the
rest (R65, R43). `CMD` is not stored to: its writes go to `issue`. -/
def State.storeReg (s : State) (r : Reg) (v : Word) : State :=
  match r with
  | .ctrl => { s with ctrl := v.extractLsb' 0 2 }
  | .freq => { s with freq := v }
  | .amp => { s with amp := v }
  | .dur => { s with dur := v }
  | .duty => { s with duty := v.extractLsb' 0 8 }
  | .seed => { s with seed := v }
  | .id => s
  | .cmd => s
  | .status => s
  | .errcode => s
  | .errcmd => s
  | .period => s
  | .nsamp => s
  | .cycwin _ => s

/-- A legal write to a register other than `CMD` (R65): dropped while busy, else stored. -/
def State.writeReg (s : State) (r : Reg) (v : Word) : State :=
  if s.busy then s.dropWrite else s.storeReg r v

/-- A legal write of `w` to `CMD` (R65, R100): a command word runs its command, any other word goes
through the same acceptance and raises `IllegalCommand` (R82, R196). -/
def issue (w : Word) (s : State) : Host.Outcome State Fault Refusal :=
  match decode w with
  | .ok i => exec i s
  | .error _ => .next (acceptCommand w (fun t => t.raiseError .illegalCommand w) s)

/-- `MemRead(addr, n)` (R60, R62, R64): no effect but the answer. -/
def busRead (addr : Nat) (size : AccessSize) (s : State) : State :=
  match accessed s.cfg.cycleDepth addr size with
  | some r => s.answer (.read .okay (s.readReg r))
  | none => s.answer (.read .err 0)

/-- `MemWrite(addr, n, v)` (R60, R62, R65). -/
def busWrite (addr : Nat) (size : AccessSize) (v : Word) (s : State) :
    Host.Outcome State Fault Refusal :=
  match accessed s.cfg.cycleDepth addr size with
  | none => .next (s.answer (.write .err))
  | some .cmd => issue v (s.answer (.write .okay))
  | some r => .next ((s.answer (.write .okay)).writeReg r v)

/-- One move of one agent (R10). -/
def takeEvent (e : Event) (s : State) : Host.Outcome State Fault Refusal :=
  match e with
  | .hostRead addr size => .next (busRead addr size s)
  | .hostWrite addr size v => busWrite addr size v s
  | .sequencer => sequencerTurn s
  | .consumer ready => .next { s with outReady := ready }
  | .reset draw => .next (s.resetBlock draw)

end Sys2Proof.Machine
end

