-- ==== Sys2Proof/Machine/Step.lean ====
section
/-! DEFINITION. One step of the machine: the next agent of the schedule moves; when the schedule is
exhausted only the sequencer is left and it takes its turn (R69, R232, log 2). -/

namespace Sys2Proof.Machine

def step (s : State) : Host.Outcome State Fault Refusal :=
  match s.schedule with
  | [] => sequencerTurn s
  | e :: rest => takeEvent e { s with schedule := rest }

/-- The instruction is where the next step takes its command from: the host's next move is the write
of its word to `CMD` (R26, R71, log 16). -/
def State.withFetchWord (s : State) (nbits w : Nat) : State :=
  { s with schedule := .hostWrite 0x004 .word (tableWord nbits w) :: s.schedule }

end Sys2Proof.Machine
end

