-- ==== Sys2Proof/Machine/Notation.lean ====
section
/-! DEFINITION. The notation for host programs (R87, R89, R90) and the pseudo-instructions (R88), as the
moves they stand for. Nothing in the block depends on it (D31, log 20). -/

namespace Sys2Proof.Machine

/-- A program line: one host action (R87). -/
inductive Line where
  /-- `WR <reg>, <value>`. -/
  | wr (r : Reg) (v : Word)
  /-- `RD <reg>`, `RD CYCWIN[i]`. -/
  | rd (r : Reg)
  /-- A mnemonic of R81. -/
  | command (i : Instr)
  /-- `WAIT`, a run of reads of `STATUS` whose length is free: one read after each group of so many
  sequencer steps (R69, R87). -/
  | wait (groups : List Nat)
  /-- `RESET`, with the draw it makes (R87, R220). -/
  | reset (draw : Fin 4294967295)
  deriving DecidableEq, Repr

/-- The moves a line stands for (R87, R89). -/
def lineEvents : Line → List Event
  | .wr r v => [.hostWrite (regAddr r) .word v]
  | .rd r => [.hostRead (regAddr r) .word]
  | .command i => [.hostWrite (regAddr .cmd) .word (encode i)]
  | .wait groups =>
    groups.flatMap (fun n => List.replicate n .sequencer ++ [.hostRead (regAddr .status) .word])
  | .reset draw => [.reset draw]

/-- The moves of a program, a finite sequence of lines (R90), with sequencer steps in its waits only. -/
def programEvents (ls : List Line) : List Event := ls.flatMap lineEvents

/-- `SETF`, on the pattern the host converted to (R88, R84). -/
def setf (freq : Word) : List Line := [.wr .freq freq]

/-- `SETA` (R88). -/
def seta (amp : Word) : List Line := [.wr .amp amp]

/-- `SETD` (R88). -/
def setd (dur : Word) : List Line := [.wr .dur dur]

/-- `RESEED` (R88). -/
def reseed (v : Word) (groups : List Nat) : List Line := [.wr .seed v, .command .seed, .wait groups]

/-- `TONE` (R88). -/
def tone (k : Kind) (freq amp dur : Word) (genWait packWait : List Nat) : List Line :=
  setf freq ++ seta amp ++ [.command k.command, .wait genWait] ++ setd dur
    ++ [.command .pack, .wait packWait]

/-- `TONEP` (R88). -/
def tonep (freq amp duty dur : Word) (genWait packWait : List Nat) : List Line :=
  setf freq ++ seta amp ++ [.wr .duty duty, .command .genPulse, .wait genWait] ++ setd dur
    ++ [.command .pack, .wait packWait]

end Sys2Proof.Machine
end

