-- ==== Sys2Proof/Safety.lean ====
section
/-! DEFINITION. The invariant of every reachable state (R46, with R34, R35 and the form of stored memory),
and what a step without a stop is. -/

namespace Sys2Proof.Machine

/-- R46 clause by clause. Clause 8 (`CYC[i]` in -32768 .. 32767) holds by the width of an entry. -/
structure State.Inv (s : State) : Prop where
  /-- The configuration is admissible (R5). -/
  config : s.cfg.wellFormed = true
  /-- Clause 1: `PERIOD <= CYCLE_DEPTH`. -/
  periodBound : s.period.toNat ≤ s.cfg.cycleDepth
  /-- Clause 2: `PRNG != 0`. -/
  prngNonzero : s.prng ≠ 0
  /-- Clause 3: `BUSY` excludes `ERR` and `DONE`. -/
  busyQuiet : s.busy = true → s.err = false ∧ s.done = false
  /-- Clause 4: `DONE` excludes `BUSY` and `ERR`. -/
  doneQuiet : s.done = true → s.busy = false ∧ s.err = false
  /-- Clause 5: `ERR = 1` iff `ERRCODE != 0`. -/
  errCode : s.err = true ↔ s.errcode ≠ 0
  /-- R35: `ERRCMD` is 0 when `ERR = 0`. -/
  errCmd : s.err = false → s.errcmd = 0
  /-- Clause 6: a running generation. -/
  generating : ∀ k, s.run = .gen k →
    s.period = 0 ∧ 1 ≤ s.plat.toNat ∧ s.plat.toNat ≤ s.cfg.cycleDepth ∧ s.gidx.toNat < s.plat.toNat
  /-- Clause 7: a running stream. -/
  streaming : s.run = .pack →
    1 ≤ s.period.toNat ∧ 1 ≤ s.nsamp.toNat ∧ s.sidx.toNat < s.nsamp.toNat
  /-- The stored cycle RAM is in canonical form and holds no entry the RAM does not have (R39). -/
  ram : Memory.wf s.cyc = true ∧ Memory.within s.cfg.cycleDepth s.cyc = true

/-- The host may issue a command that is accepted: `BUSY = 0` and `ERR = 0` (R100, R210). -/
def State.Ready (s : State) : Prop := s.busy = false ∧ s.err = false

/-- The move the next step makes: the head of the schedule, the sequencer's turn when it is empty. -/
def State.nextEvent (s : State) : Event :=
  match s.schedule with
  | [] => .sequencer
  | e :: _ => e

/-- The state with the next move taken off the schedule. -/
def State.popped (s : State) : State := { s with schedule := s.schedule.tail }

/-- A step that neither faults nor is refused. -/
def SafeStep (s : State) : Prop := ∃ t, step s = .next t

end Sys2Proof.Machine
end

