-- ==== Sys2Proof/Certificates/Slice0/Obligations.lean ====
section
/-! DEFINITION. The statements for the provers, each formalising rules of the spec that its docstring
names. `exec i s` is the legal write of `i`'s word to `CMD`; `takeEvent` is one move of one agent; `step`
is the next move of the schedule. -/

open Sys2Proof Sys2Proof.Machine

/-! ### Encoding -/

/-- R81: the nine words with their fields, and a word selects a command iff it equals the `word` column
exactly. -/
def Obligations.WordSelectsCommandExactly : Prop :=
  (encode .nop = 0x00000000 ∧ encode .genSine = 0x00000010 ∧ encode .genTri = 0x00000011 ∧
    encode .genSaw = 0x00000012 ∧ encode .genPulse = 0x00000013 ∧ encode .genNoise = 0x00000014 ∧
    encode .pack = 0x00000020 ∧ encode .seed = 0x00000030 ∧ encode .clrerr = 0x00000040) ∧
  (fieldsOf (encode .nop) = ⟨0, 0, 0⟩ ∧ fieldsOf (encode .genSine) = ⟨0, 1, 0⟩ ∧
    fieldsOf (encode .genTri) = ⟨0, 1, 1⟩ ∧ fieldsOf (encode .genSaw) = ⟨0, 1, 2⟩ ∧
    fieldsOf (encode .genPulse) = ⟨0, 1, 3⟩ ∧ fieldsOf (encode .genNoise) = ⟨0, 1, 4⟩ ∧
    fieldsOf (encode .pack) = ⟨0, 2, 0⟩ ∧ fieldsOf (encode .seed) = ⟨0, 3, 0⟩ ∧
    fieldsOf (encode .clrerr) = ⟨0, 4, 0⟩) ∧
  (∀ i : Instr, i.wellFormed = true → decode (encode i) = .ok i) ∧
  ∀ (w : Word) (i : Instr), decode w = .ok i ↔ w = encode i

/-- R82, R85: which words are refused, and for which reason. -/
def Obligations.IllegalWordsAreRefusedByReason : Prop :=
  ∀ w : Word,
    (decode w = .error .reservedNotZero ↔ w.toNat / 256 ≠ 0) ∧
    (decode w = .error .majorOutOfRange ↔ w.toNat / 256 = 0 ∧ 5 ≤ w.toNat / 16) ∧
    (decode w = .error .kindOutOfRange ↔ w.toNat / 16 = 1 ∧ 5 ≤ w.toNat % 16) ∧
    (decode w = .error .minorNotZero ↔
      (w.toNat / 16 = 0 ∨ w.toNat / 16 = 2 ∨ w.toNat / 16 = 3 ∨ w.toNat / 16 = 4) ∧
        w.toNat % 16 ≠ 0)

/-- 95_test_vectors.md V-DEC, from R81 and R82: words written out from the encoding decode as listed. -/
def Obligations.ListedWordsDecode : Prop :=
  decode 0x00000000 = .ok .nop ∧ decode 0x00000010 = .ok .genSine ∧ decode 0x00000012 = .ok .genSaw ∧
  decode 0x00000014 = .ok .genNoise ∧ decode 0x00000020 = .ok .pack ∧ decode 0x00000040 = .ok .clrerr ∧
  decode 0x00000015 = .error .kindOutOfRange ∧ decode 0x00000021 = .error .minorNotZero ∧
  decode 0x00000050 = .error .majorOutOfRange ∧ decode 0x80000010 = .error .reservedNotZero

/-! ### The step and the bus -/

/-- R100, R71: when the host's next move writes a command's word to `CMD`, the step is that command on
the state with the move taken and the bus answered; nothing else stands around it. -/
def Obligations.StepRunsTheDecodedCommand : Prop :=
  ∀ (s : State) (w : Word) (i : Instr) (rest : List Event),
    s.schedule = .hostWrite 0x004 .word w :: rest → decode w = .ok i → i.wellFormed = true →
    step s = exec i { s with schedule := rest, reply := some (.write .okay) }

/-- R196: a word outside the table raises `IllegalCommand` when the block is idle and no error is
recorded, is dropped with `OVR` otherwise, and invalidates no cycle. -/
def Obligations.IllegalWordRaisesIllegalCommand : Prop :=
  ∀ (s : State) (w : Word) (rest : List Event),
    s.schedule = .hostWrite 0x004 .word w :: rest → (∀ i, w ≠ encode i) →
    step s = .next
      (if s.busy = true ∨ s.err = true then
        { s with schedule := rest, reply := some (.write .okay), ovr := true }
      else
        { s with schedule := rest, reply := some (.write .okay), done := false, err := true,
                 errcode := 5, errcmd := w })

/-- R65, with R43: what a legal write to each mapped register does. -/
def Obligations.LegalWriteRule : Prop :=
  (∀ (s : State) (r : Reg) (v : Word), (∀ i, r = .cycwin i → i < s.cfg.cycleDepth) →
    takeEvent (.hostWrite (regAddr r) .word v) s =
      if s.busy = true then .next { s with reply := some (.write .okay), ovr := true }
      else
        match r with
        | .cmd => issue v { s with reply := some (.write .okay) }
        | .ctrl => .next { s with reply := some (.write .okay), ctrl := v.extractLsb' 0 2 }
        | .freq => .next { s with reply := some (.write .okay), freq := v }
        | .amp => .next { s with reply := some (.write .okay), amp := v }
        | .dur => .next { s with reply := some (.write .okay), dur := v }
        | .duty => .next { s with reply := some (.write .okay), duty := v.extractLsb' 0 8 }
        | .seed => .next { s with reply := some (.write .okay), seed := v }
        | .id | .status | .errcode | .errcmd | .period | .nsamp | .cycwin _ =>
          .next { s with reply := some (.write .okay) }) ∧
  ∀ (s : State) (v : Word),
    ({ s with ctrl := v.extractLsb' 0 2 } : State).readReg .ctrl = v &&& 0x00000003 ∧
    ({ s with duty := v.extractLsb' 0 8 } : State).readReg .duty = v &&& 0x000000FF

/-- R62, R63: which transactions are legal; a legal one answers `OKAY`, any other answers `ERR` (a read
with data 0) and changes nothing else. -/
def Obligations.LegalAccessesAndOthers : Prop :=
  ∀ (s : State) (addr : Nat) (size : AccessSize) (v : Word),
    ((∃ r, accessed s.cfg.cycleDepth addr size = some r) ↔
      size = .word ∧ addr % 4 = 0 ∧
        (addr ∈ [0x000, 0x004, 0x008, 0x00C, 0x010, 0x014, 0x020, 0x024, 0x028, 0x02C, 0x030, 0x040,
            0x044] ∨
          (0x1000 ≤ addr ∧ addr < 0x1000 + 4 * s.cfg.cycleDepth))) ∧
    ((∃ r, accessed s.cfg.cycleDepth addr size = some r) →
      (∃ d, takeEvent (.hostRead addr size) s = .next { s with reply := some (.read .okay d) }) ∧
      ∃ t, takeEvent (.hostWrite addr size v) s = .next t ∧ t.reply = some (.write .okay)) ∧
    (accessed s.cfg.cycleDepth addr size = none →
      takeEvent (.hostRead addr size) s = .next { s with reply := some (.read .err 0) } ∧
      takeEvent (.hostWrite addr size v) s = .next { s with reply := some (.write .err) })

/-- R61: which register stands at which offset; the window's entries from 0x1000 on, one word each. -/
def Obligations.RegistersStandAtTheirOffsets : Prop :=
  ∀ d : Nat,
    (∀ p ∈ [(0x000, Reg.id), (0x004, .cmd), (0x008, .status), (0x00C, .errcode), (0x010, .errcmd),
        (0x014, .ctrl), (0x020, .freq), (0x024, .amp), (0x028, .dur), (0x02C, .duty), (0x030, .seed),
        (0x040, .period), (0x044, .nsamp)],
      regAddr p.2 = p.1 ∧ accessed d p.1 .word = some p.2) ∧
    ∀ i, i < d → regAddr (.cycwin i) = 0x1000 + 4 * i ∧
      accessed d (0x1000 + 4 * i) .word = some (.cycwin i)

/-- R64: a legal read gives the register's current value in every state, running or faulted, and has no
other effect; `CMD` reads 0; the same read again gives the same. -/
def Obligations.ReadsAreSnapshotsWithoutEffect : Prop :=
  ∀ (s : State) (r : Reg), (∀ i, r = .cycwin i → i < s.cfg.cycleDepth) →
    takeEvent (.hostRead (regAddr r) .word) s =
      .next { s with reply := some (.read .okay (s.readReg r)) } ∧
    takeEvent (.hostRead (regAddr r) .word) { s with reply := some (.read .okay (s.readReg r)) } =
      .next { s with reply := some (.read .okay (s.readReg r)) } ∧
    s.readReg .cmd = 0

/-- R21, R33 (bit places), R34, R36, R30, R43: what the host reads, bit by bit, reserved bits 0. -/
def Obligations.RegisterReadValues : Prop :=
  ∀ s : State,
    s.readReg .id = 0x434E4F31 ∧
    ((s.readReg .status).getLsbD 0 = true ↔ s.run ≠ .idle) ∧
    (s.readReg .status).getLsbD 1 = s.done ∧
    (s.readReg .status).getLsbD 2 = s.err ∧
    (s.readReg .status).getLsbD 3 = s.ovr ∧
    ((s.readReg .status).getLsbD 4 = true ↔ s.period ≠ 0) ∧
    (s.readReg .status).toNat < 32 ∧
    (s.readReg .errcode).toNat = s.errcode.toNat ∧
    (s.readReg .ctrl).toNat = s.ctrl.toNat ∧
    (s.readReg .duty).toNat = s.duty.toNat ∧
    s.readReg .errcmd = s.errcmd ∧ s.readReg .freq = s.freq ∧ s.readReg .amp = s.amp ∧
    s.readReg .dur = s.dur ∧ s.readReg .seed = s.seed ∧ s.readReg .period = s.period ∧
    s.readReg .nsamp = s.nsamp

/-- R66: the window gives a valid entry sign-extended, any other entry as 0, every entry as 0 during a
generation, the same value throughout a `PACK` unless a reset comes, and ignores (or, while busy, drops)
writes. -/
def Obligations.CycleWindowMasksInvalidEntries : Prop :=
  ∀ (s : State) (i : Nat), i < s.cfg.cycleDepth →
    (∃ d, takeEvent (.hostRead (0x1000 + 4 * i) .word) s =
        .next { s with reply := some (.read .okay d) } ∧
      (i < s.period.toNat → d.toInt = (readEntry s.cyc i).toInt) ∧
      (s.period.toNat ≤ i → d = 0) ∧
      (∀ k, s.Inv → s.run = .gen k → d = 0)) ∧
    (∀ e t, s.run = .pack → (∀ r, e ≠ .reset r) → takeEvent e s = .next t → t.window i = s.window i) ∧
    ∀ v, takeEvent (.hostWrite (0x1000 + 4 * i) .word v) s =
      .next (if s.busy = true then { s with reply := some (.write .okay), ovr := true }
        else { s with reply := some (.write .okay) })

/-- R42: `irq = (DONE and IE_DONE) or (ERR and IE_ERR)`; R199: the two sources are never both active in a
state that meets the invariant. -/
def Obligations.InterruptOutputLevel : Prop :=
  ∀ s : State,
    (s.irq = true ↔
      (s.done = true ∧ s.ctrl.getLsbD 0 = true) ∨ (s.err = true ∧ s.ctrl.getLsbD 1 = true)) ∧
    (s.Inv → ¬ (s.done = true ∧ s.err = true))

/-! ### The commands -/

/-- R180: `NOP` sets `DONE` and changes nothing else; it is dropped with `OVR` while an error is recorded
and while a command runs; with `IE_DONE` it raises `irq`. -/
def Obligations.NopCompletes : Prop :=
  ∀ s : State,
    (s.Ready → exec .nop s = .next { s with done := true }) ∧
    (s.busy = false → s.err = true → exec .nop s = .next { s with ovr := true }) ∧
    (s.busy = true → exec .nop s = .next { s with ovr := true }) ∧
    (s.ctrl.getLsbD 0 = true → ({ s with done := true } : State).irq = true)

/-- R133: `SEED` loads the generator from the `SEED` register, 0 replaced by 1, and completes; writing
the register alone leaves the generator alone. -/
def Obligations.SeedLoadsTheGenerator : Prop :=
  ∀ s : State,
    (s.Ready → exec .seed s =
      .next { s with prng := if s.seed = 0 then 0x00000001 else s.seed, done := true }) ∧
    ∀ (v : Word) (t : State), takeEvent (.hostWrite 0x030 .word v) s = .next t → t.prng = s.prng

/-- R181: `CLRERR` clears the record and `OVR` and sets `DONE`, whether or not an error is recorded; no
other command is accepted while one is; while busy it is dropped. -/
def Obligations.ClrerrReturnsFromError : Prop :=
  ∀ s : State,
    (s.busy = false → exec .clrerr s =
      .next { s with err := false, ovr := false, errcode := 0, errcmd := 0, done := true }) ∧
    (s.busy = true → exec .clrerr s = .next { s with ovr := true }) ∧
    ∀ i, i ≠ .clrerr → s.busy = false → s.err = true → exec i s = .next { s with ovr := true }

/-- R101, success: each of the five `GEN_*` commands, accepted with operands that pass its checks, starts
its generation: `PERIOD` is 0, `plat` is `floor(44100*65536/F)`, `gidx` is 0, `BUSY` reads 1. -/
def Obligations.GenerationStarts : Prop :=
  ∀ (i : Instr) (k : Kind) (s : State),
    (i, k) ∈ [(Instr.genSine, Kind.sine), (.genTri, .tri), (.genSaw, .saw), (.genPulse, .pulse),
      (.genNoise, .noise)] →
    s.Ready → 1 ≤ s.freq.toNat → s.freq.toNat < 44100 * 65536 →
    44100 * 65536 / s.freq.toNat ≤ s.cfg.cycleDepth →
    (k = .pulse → 1 ≤ s.duty.toNat ∧ s.duty.toNat ≤ 100) →
    ∃ t, exec i s = .next t ∧
      t = { s with done := false, period := 0, gidx := 0, run := .gen k,
                   plat := BitVec.ofNat 32 (44100 * 65536 / s.freq.toNat) } ∧
      t.busy = true ∧ (s.cfg.wellFormed = true → t.plat.toNat = 44100 * 65536 / s.freq.toNat)

/-- R191, R195, R192 and their order R198 (items 4 to 6): the errors of a `GEN_*`, each of which also
invalidates the held cycle (R194). -/
def Obligations.GenerationErrorsInOrder : Prop :=
  ∀ (k : Kind) (s : State), s.Ready →
    ((s.freq.toNat = 0 ∨ 44100 * 65536 ≤ s.freq.toNat) →
      exec k.command s = .next
        { s with done := false, err := true, errcode := 1, errcmd := encode k.command, period := 0 }) ∧
    (1 ≤ s.freq.toNat → s.freq.toNat < 44100 * 65536 →
      s.cfg.cycleDepth < 44100 * 65536 / s.freq.toNat →
      exec k.command s = .next
        { s with done := false, err := true, errcode := 4, errcmd := encode k.command, period := 0 }) ∧
    (1 ≤ s.freq.toNat → s.freq.toNat < 44100 * 65536 →
      44100 * 65536 / s.freq.toNat ≤ s.cfg.cycleDepth →
      (s.duty.toNat = 0 ∨ 100 < s.duty.toNat) →
      exec .genPulse s = .next
        { s with done := false, err := true, errcode := 2, errcmd := 0x00000013, period := 0 })

/-- R155 with a held cycle: `PACK` records `N`; with `N = 0` it completes at once, otherwise it starts
streaming from sample 0. -/
def Obligations.PackStartsOrCompletes : Prop :=
  ∀ s : State, s.Ready → s.period ≠ 0 →
    exec .pack s = .next
      (if 44100 * s.dur.toNat / 65536 = 0 then { s with nsamp := 0, done := true }
      else
        { s with done := false, nsamp := BitVec.ofNat 32 (44100 * s.dur.toNat / 65536), sidx := 0,
                 bph := .low, run := .pack })

/-- R193, R155: `PACK` without a held cycle raises `EmptyCycle`; `NSAMP` and `OUT` are unchanged. -/
def Obligations.PackOfNoCycleRaisesEmptyCycle : Prop :=
  ∀ s : State, s.Ready → s.period = 0 →
    exec .pack s = .next
      { s with done := false, err := true, errcode := 3, errcmd := 0x00000020 }

/-- R65, R100, R205: a command written while the block is busy, or while an error is recorded and it is
not `CLRERR`, sets `OVR` and does nothing else. -/
def Obligations.CommandsAreDroppedWhenBusyOrFaulted : Prop :=
  ∀ (i : Instr) (s : State),
    (s.busy = true → exec i s = .next { s with ovr := true }) ∧
    (s.busy = false → s.err = true → i ≠ .clrerr → exec i s = .next { s with ovr := true })

/-- R194, R190: error entry writes the record, invalidates the cycle for the `GEN_*` words, and changes
nothing else. -/
def Obligations.ErrorEntryWritesTheRecord : Prop :=
  ∀ (s : State) (e : BlockError) (w : Word),
    s.raiseError e w =
      { s with
        err := true
        errcode :=
          match e with
          | .invalidFrequency => 1
          | .invalidDutyCycle => 2
          | .emptyCycle => 3
          | .periodTooLong => 4
          | .illegalCommand => 5
        errcmd := w
        period := if w ∈ [0x10, 0x11, 0x12, 0x13, 0x14] then 0 else s.period }

/-- R45: the frame of every command. Operand registers, `CTRL`, the cycle RAM byte by byte, `OUT`, the
answer of the bus and the model's own fields never change; every other field only for the commands the
table names. -/
def Obligations.CommandFrame : Prop :=
  ∀ (i : Instr) (s t : State), exec i s = .next t →
    (t.freq = s.freq ∧ t.amp = s.amp ∧ t.dur = s.dur ∧ t.duty = s.duty ∧ t.seed = s.seed ∧
      t.ctrl = s.ctrl) ∧
    (∀ a, readByte t.cyc a = readByte s.cyc a) ∧ t.cyc = s.cyc ∧ t.out = s.out ∧
    (t.cfg = s.cfg ∧ t.schedule = s.schedule ∧ t.outReady = s.outReady ∧ t.reply = s.reply) ∧
    (i ≠ .seed → t.prng = s.prng) ∧
    (i ≠ .pack → t.nsamp = s.nsamp ∧ t.sidx = s.sidx ∧ t.bph = s.bph) ∧
    ((∀ k : Kind, i ≠ k.command) → t.period = s.period ∧ t.plat = s.plat ∧ t.gidx = s.gidx) ∧
    ((∀ k : Kind, i ≠ k.command) → i ≠ .pack → t.run = s.run) ∧
    (i = .nop ∨ i = .seed → t.err = s.err ∧ t.errcode = s.errcode ∧ t.errcmd = s.errcmd) ∧
    (i ≠ .clrerr → s.ovr = true → t.ovr = true)

/-! ### The sequencer -/

/-- R104 (`gen_step`): one sample is stored, the others keep, the generator steps for noise only, and the
last sample completes the generation in the same step. -/
def Obligations.SampleStep : Prop :=
  ∀ (s : State) (k : Kind), s.run = .gen k → s.gidx.toNat < s.cfg.cycleDepth →
    ∃ t, sequencerTurn s = .next t ∧
      (Memory.wf s.cyc = true →
        (readEntry t.cyc s.gidx.toNat).toInt = quant16 (s.sample k s.gidx.toNat)) ∧
      (∀ j, j ≠ s.gidx.toNat → readEntry t.cyc j = readEntry s.cyc j) ∧
      t = { s with
        cyc := t.cyc
        prng := if k = .noise then xs32 s.prng else s.prng
        gidx := s.gidx + 1
        period := if s.gidx + 1 = s.plat then s.plat else s.period
        run := if s.gidx + 1 = s.plat then .idle else .gen k
        done := if s.gidx + 1 = s.plat then true else s.done }

/-- R104, R132, R110: a generation issued with legal operands completes in exactly `p` turns of the
sequencer, is busy with `PERIOD = 0` before that, and leaves `CYC[t] = Quant16(sample_k(t))` for
`t < p`, every other entry as it was, `PERIOD = p`, `DONE = 1`, `PRNG` advanced `p` times for noise and
unchanged otherwise, and `OUT`, the operands and the rest untouched. -/
def Obligations.GenerationRunsToCompletion : Prop :=
  ∀ (k : Kind) (s t : State) (p : Nat), s.Inv → s.Ready →
    1 ≤ s.freq.toNat → s.freq.toNat < 44100 * 65536 → p = 44100 * 65536 / s.freq.toNat →
    p ≤ s.cfg.cycleDepth → (k = .pulse → 1 ≤ s.duty.toNat ∧ s.duty.toNat ≤ 100) →
    exec k.command s = .next t →
    (∀ j, j < p → ∃ u, sequencerTurns j t = .next u ∧ u.busy = true ∧ u.done = false ∧ u.period = 0) ∧
    ∃ u, sequencerTurns p t = .next u ∧
      (∀ n, n < p → (readEntry u.cyc n).toInt = quant16 (cycleSample s k n)) ∧
      (∀ n, p ≤ n → readEntry u.cyc n = readEntry s.cyc n) ∧
      u.period.toNat = p ∧
      u = { s with
        done := true
        period := u.period
        cyc := u.cyc
        prng := if k = .noise then xs32^[p] s.prng else s.prng
        plat := u.period
        gidx := u.period }

/-- R158 (`pack_step`): to a ready consumer one byte of the current sample is handed over, the low byte
with `last` 0 first; the high byte advances the sample index, and on the last sample it is marked and
completes the stream in the same step. -/
def Obligations.ByteStep : Prop :=
  ∀ s : State, s.run = .pack → s.outReady = true → s.period ≠ 0 →
    s.period.toNat ≤ s.cfg.cycleDepth →
    sequencerTurn s = .next
      (match s.bph with
      | .low =>
        { s with
          out := s.out ++
            [⟨(readEntry s.cyc (s.sidx.toNat % s.period.toNat)).extractLsb' 0 8, false⟩]
          bph := .high }
      | .high =>
        { s with
          out := s.out ++
            [⟨(readEntry s.cyc (s.sidx.toNat % s.period.toNat)).extractLsb' 8 8,
              decide (s.sidx = s.nsamp - 1)⟩]
          bph := .low
          sidx := s.sidx + 1
          run := if s.sidx = s.nsamp - 1 then .idle else .pack
          done := if s.sidx = s.nsamp - 1 then true else s.done })

/-- R24, R158, R67: a byte is offered exactly while a `PACK` runs; it is the low byte of the current entry,
unmarked, in the low phase and the high byte, marked on the last sample, in the high phase. -/
def Obligations.StreamPortsOfferTheNextByte : Prop :=
  ∀ s : State, (s.outValid = true ↔ s.run = .pack) ∧
    (s.bph = .low → s.offeredByte =
      ⟨(readEntry s.cyc (s.sidx.toNat % s.period.toNat)).extractLsb' 0 8, false⟩) ∧
    (s.bph = .high → s.offeredByte =
      ⟨(readEntry s.cyc (s.sidx.toNat % s.period.toNat)).extractLsb' 8 8, decide (s.sidx = s.nsamp - 1)⟩)

/-- R157, R158, R159, R160, R162: a `PACK` of a held cycle to a ready consumer completes in exactly `2N`
turns, is busy before that, and appends to `OUT` exactly `2N` bytes, byte `2n` being `q_n[7:0]` and byte
`2n+1` being `q_n[15:8]` with `q_n = CYC[n mod PERIOD]`, `last` on byte `2N-1` only; nothing else changes
but `NSAMP`, `DONE` and the sequencer's own state. -/
def Obligations.StreamRunsToCompletion : Prop :=
  ∀ (s t : State) (N : Nat), s.Inv → s.Ready → s.period ≠ 0 → s.outReady = true →
    N = 44100 * s.dur.toNat / 65536 → exec .pack s = .next t →
    (∀ j, j < 2 * N → ∃ u, sequencerTurns j t = .next u ∧ u.busy = true ∧ u.done = false) ∧
    ∃ (u : State) (bs : List OutByte), sequencerTurns (2 * N) t = .next u ∧
      u.out = s.out ++ bs ∧ bs.length = 2 * N ∧
      (∀ n, n < N →
        bs[2 * n]? = some ⟨(readEntry s.cyc (n % s.period.toNat)).extractLsb' 0 8, false⟩ ∧
        bs[2 * n + 1]? = some ⟨(readEntry s.cyc (n % s.period.toNat)).extractLsb' 8 8,
          decide (2 * n + 1 = 2 * N - 1)⟩) ∧
      u.nsamp.toNat = N ∧
      u = { s with done := true, out := u.out, nsamp := u.nsamp, sidx := u.sidx, bph := u.bph }

/-- R69, R161: an idle sequencer takes no step, and a stream whose consumer is not ready holds, however
many turns pass; the consumer's becoming ready lifts the hold. -/
def Obligations.IdleAndStalledSequencerHolds : Prop :=
  (∀ (s : State) (n : Nat), s.run = .idle → sequencerTurns n s = .next s) ∧
  (∀ (s : State) (n : Nat), s.run = .pack → s.outReady = false →
    sequencerTurns n s = .next s ∧ s.busy = true) ∧
  (∀ s : State, s.Inv → s.run = .pack →
    ∃ t b, takeEvent (.consumer true) s = .next { s with outReady := true } ∧
      sequencerTurn { s with outReady := true } = .next t ∧ t.out = s.out ++ [b])

/-! ### Arithmetic -/

/-- R101, R110 clause 1, R112: for a legal `F` the period is `floor(44100 / f)` with `f = F/65536`, and
lies between 1 and 2890137600. -/
def Obligations.PeriodIsFloorOfRateOverFrequency : Prop :=
  ∀ F : Nat, 1 ≤ F → F < 44100 * 65536 →
    (periodOf F : Int) = ((44100 : Rat) / ((F : Rat) / 65536)).floor ∧
    1 ≤ periodOf F ∧ periodOf F ≤ 2890137600

/-- R156: `N = floor(44100 * d)` with `d = DUR/65536`; it fits 32 bits, and is 0 for `DUR` 0 and 1 only. -/
def Obligations.SampleCountIsFloorOfRateTimesDuration : Prop :=
  ∀ d : Word,
    (sampleCountOf d.toNat : Int) = ((44100 : Rat) * ((d.toNat : Rat) / 65536)).floor ∧
    sampleCountOf d.toNat ≤ 2890137599 ∧
    (sampleCountOf d.toNat = 0 ↔ d.toNat ≤ 1)

/-- R102: the amplitude is the register's value clamped into [0, 1]; a generation's samples depend on
`AMP` through the clamped value alone; the register keeps its pattern. -/
def Obligations.AmplitudeIsClampedSilently : Prop :=
  (∀ amp : Word, amplitude amp =
    if amp.toInt < 0 then 0 else if 65536 < amp.toInt then 1 else (amp.toInt : Rat) / 65536) ∧
  (∀ (s : State) (b : Word) (k : Kind) (n : Nat), ampClamped s.amp = ampClamped b →
    cycleSample s k n = cycleSample { s with amp := b } k n) ∧
  (∀ (k : Kind) (s t : State) (b : Word), exec k.command s = .next t →
    t.amp = s.amp ∧ exec k.command { s with amp := b } = .next { t with amp := b })

/-- R105, R106, R107, R132: the samples are D0's formulas, with `f = F/65536`, `SR = 44100`, `p` the
period and `a` the clamped amplitude. -/
def Obligations.SamplesFollowTheFormulas : Prop :=
  ∀ (s : State) (n : Nat),
    cycleSample s .sine n =
      amplitude s.amp * sinFn s.cfg ((s.freq.toNat : Rat) / 65536 * n / 44100) ∧
    (1 ≤ periodOf s.freq.toNat → cycleSample s .tri n =
      amplitude s.amp * (periodOf s.freq.toNat - 2 * |2 * (n : Rat) - periodOf s.freq.toNat| - 2)
        / periodOf s.freq.toNat) ∧
    cycleSample s .saw n =
      amplitude s.amp * ((s.freq.toNat : Rat) / 65536 * (n / 44100) * 2 - 1) ∧
    cycleSample s .noise n = amplitude s.amp * uniformOf (xs32^[n + 1] s.prng) ∧
    ∀ h : Nat, h = (xs32^[n + 1] s.prng).toNat / 65536 →
      cycleSample s .noise n =
        amplitude s.amp * ((if h < 32768 then (h : Rat) else (h : Rat) - 65536) / 32768)

/-- R108: for a duty cycle `dc` and period `p`, sample `t` is `+a` exactly when `t` is below
`floor(dc*p/100)`, which never exceeds `p` for `dc <= 100` and is `p` for `dc = 100`; the two quantised
levels are `rhe(Ac*32767/65536)` and its negation. -/
def Obligations.PulseLevelsAndThreshold : Prop :=
  ∀ (s : State) (n : Nat),
    cycleSample s .pulse n =
      (if (n + 1) * 100 ≤ s.duty.toNat * periodOf s.freq.toNat then amplitude s.amp
      else -amplitude s.amp) ∧
    (s.duty.toNat ≤ 100 → thresholdOf s.duty.toNat (periodOf s.freq.toNat) ≤ periodOf s.freq.toNat) ∧
    thresholdOf 100 (periodOf s.freq.toNat) = periodOf s.freq.toNat ∧
    quant16 (amplitude s.amp) = rhe ((ampClamped s.amp * 32767 : Rat) / 65536) ∧
    quant16 (-amplitude s.amp) = -quant16 (amplitude s.amp)

/-- R111: with a legal frequency every sample of index below `p` but the triangle's first lies in
[-a, a], the sawtooth below a; the triangle's first is `-a*(p+2)/p`. -/
def Obligations.SampleRanges : Prop :=
  ∀ (s : State) (n : Nat), 1 ≤ s.freq.toNat → s.freq.toNat < 44100 * 65536 →
    n < periodOf s.freq.toNat →
    |cycleSample s .sine n| ≤ amplitude s.amp ∧
    (-amplitude s.amp ≤ cycleSample s .saw n ∧ cycleSample s .saw n ≤ amplitude s.amp ∧
      (0 < amplitude s.amp → cycleSample s .saw n < amplitude s.amp)) ∧
    |cycleSample s .pulse n| ≤ amplitude s.amp ∧
    (-amplitude s.amp ≤ cycleSample s .noise n ∧
      cycleSample s .noise n ≤ amplitude s.amp * (32767 / 32768)) ∧
    (0 < n → |cycleSample s .tri n| ≤ amplitude s.amp) ∧
    cycleSample s .tri 0 =
      -(amplitude s.amp * (periodOf s.freq.toNat + 2) / periodOf s.freq.toNat) ∧
    (0 ≤ amplitude s.amp ∧ amplitude s.amp ≤ 1)

/-- R8, R150: `rhe` is nearest with ties to even, `wrap16` keeps the value modulo 65536 in the signed
range, the quantiser is the one after the other for every rational, so it wraps where the product
overflows, and it changes nothing but the sign under negation where no wrap occurs. -/
def Obligations.QuantizerRoundsToEvenAndWraps : Prop :=
  (∀ q : Rat, |(rhe q : Rat) - q| ≤ 1 / 2 ∧ (|(rhe q : Rat) - q| = 1 / 2 → rhe q % 2 = 0)) ∧
  (∀ z : Int, -32768 ≤ wrap16 z ∧ wrap16 z ≤ 32767 ∧ (wrap16 z - z) % 65536 = 0) ∧
  (∀ s : Rat, quant16 s = wrap16 (rhe (s * 32767)) ∧
    -32768 ≤ quant16 s ∧ quant16 s ≤ 32767 ∧ (quant16 s - rhe (s * 32767)) % 65536 = 0) ∧
  (∀ s : Rat, |rhe (s * 32767)| ≤ 32767 → quant16 (-s) = -quant16 s ∧ quant16 s = rhe (s * 32767)) ∧
  (∀ s : Rat, (quantPattern s).toInt = quant16 s)

/-- R152 at full amplitude: the triangle's first entry wraps to `65536 - rhe(32767*(p+2)/p)` for every
`p <= 43689` and does not wrap for a greater one. -/
def Obligations.TriangleFirstEntryWraps : Prop :=
  ∀ p : Nat, 1 ≤ p →
    quant16 (triSample p 1 0) =
      (if p ≤ 43689 then 65536 - rhe ((32767 * (p + 2) : Rat) / p)
      else -rhe ((32767 * (p + 2) : Rat) / p))

/-- R130: `xs32` is a bijection of the 32-bit words that fixes 0 and maps non-zero words to non-zero
words; its first four states from 1 are the rule's. -/
def Obligations.GeneratorStepIsABijection : Prop :=
  Function.Bijective xs32 ∧ xs32 0 = 0 ∧ (∀ x : Word, x ≠ 0 → xs32 x ≠ 0) ∧
  (∀ x : Word, xs32 x =
    (let y := x ^^^ (x * 8192)
     let z := y ^^^ (y / 131072)
     z ^^^ (z * 32))) ∧
  xs32 0x00000001 = 0x00042021 ∧ xs32 0x00042021 = 0x04080601 ∧ xs32 0x04080601 = 0x9DCCA8C5 ∧
  xs32 0x9DCCA8C5 = 0x1255994F

/-- R131: the uniform value is the upper half of the state, read as two's complement, over 32768; it lies
on the grid of multiples of 2^-15 in [-1, 1); -1 is attained. -/
def Obligations.UniformValueGrid : Prop :=
  (∀ (x : Word) (h : Nat), h = x.toNat / 65536 →
    uniformOf x = (if h < 32768 then (h : Rat) else (h : Rat) - 65536) / 32768) ∧
  (∀ x : Word, -1 ≤ uniformOf x ∧ uniformOf x ≤ 32767 / 32768 ∧ ∃ z : Int, uniformOf x = z / 32768) ∧
  (∃ x : Word, uniformOf (xs32 x) = -1) ∧ ∃ x : Word, uniformOf (xs32 x) = 32767 / 32768

/-- R109 for the model's `SIN_FN`: clause 3, clause 4, and clause 2 with the bound `SIN_EPS` itself, for
every positive `SIN_EPS` (no function to the rationals meets clause 2 with 0, log 10). -/
def Obligations.SineFunctionMeetsItsContract : Prop :=
  ∀ cfg : Config, sinFn cfg 0 = 0 ∧
    (∀ x : Rat, 0 ≤ x → x < 1 → |sinFn cfg x| ≤ 1) ∧
    (0 < cfg.sinEps → ∀ x : Rat, 0 ≤ x → x < 1 →
      |((sinFn cfg x : Rat) : ℝ) - Real.sin (2 * Real.pi * (x : ℝ))| ≤ ((cfg.sinEps : Rat) : ℝ))

/-- R109, the other direction (log 10): `sinFn` is the free constant itself, whose type holds, for a
positive error bound, exactly the functions that meet clauses 2, 3 and 4, and is not empty; 93 G2's
`SIN_REF` is one of them for every bound of 7*10^-12 or more; with the bound 0 no function meets clause
2. -/
def Obligations.SineContractAdmitsEveryConformingFunction : Prop :=
  (∀ (cfg : Config) (x : Rat),
    sinFn cfg x = (@Config.sinRaw cfg.sinEps ⟨sinWitness cfg.sinEps⟩ : SinFunction cfg.sinEps).1 x) ∧
  (∀ (eps : Rat) (f : Rat → Rat), 0 < eps → Nonempty (SinFunction eps) ∧
    ((∃ g : SinFunction eps, g.1 = f) ↔
      f 0 = 0 ∧ (∀ x : Rat, 0 ≤ x → x < 1 → |f x| ≤ 1) ∧
        ∀ x : Rat, 0 ≤ x → x < 1 →
          |((f x : Rat) : ℝ) - Real.sin (2 * Real.pi * (x : ℝ))| ≤ ((eps : Rat) : ℝ))) ∧
  (∀ eps : Rat, 7 / 10 ^ 12 ≤ eps → ∃ g : SinFunction eps, g.1 = sinRef) ∧
  ∀ f : Rat → Rat, ¬ ∀ x : Rat, 0 ≤ x → x < 1 →
    ((f x : Rat) : ℝ) = Real.sin (2 * Real.pi * (x : ℝ))

/-- R109, the consequence it draws from clause 2: two conforming implementations give cycle entries that
differ by at most 1. Said of the model's sine sample against the same sample by any conforming `SIN_FN`. -/
def Obligations.ConformingSinesDifferByAtMostOne : Prop :=
  ∀ (s : State) (f : Rat → Rat) (n : Nat), s.cfg.wellFormed = true → 0 < s.cfg.sinEps →
    SinContract s.cfg.sinEps f → 1 ≤ s.freq.toNat → s.freq.toNat < 44100 * 65536 →
    n < 44100 * 65536 / s.freq.toNat →
    |quant16 (cycleSample s .sine n) -
      quant16 (amplitude s.amp * f ((s.freq.toNat * n : Rat) / (65536 * 44100)))| ≤ 1

/-! ### Program notation -/

/-- R87, R88, R89: the moves of a line, and of the pseudo-instructions (log 20: on register patterns, a
`WAIT` being any numbers of sequencer turns, each followed by a read of `STATUS`). -/
def Obligations.NotationStandsForItsTransactions : Prop :=
  (∀ (v : Word) (r : Reg) (i : Instr) (d : Fin 4294967295) (n : Nat) (g : List Nat),
    programEvents [.wr r v] = [.hostWrite (regAddr r) .word v] ∧
    programEvents [.rd r] = [.hostRead (regAddr r) .word] ∧
    programEvents [.command i] = [.hostWrite 0x004 .word (encode i)] ∧
    programEvents [.reset d] = [.reset d] ∧
    programEvents [.wait []] = [] ∧
    programEvents [.wait (n :: g)] =
      List.replicate n .sequencer ++ .hostRead 0x008 .word :: programEvents [.wait g]) ∧
  (∀ v : Word, programEvents (setf v) = [.hostWrite 0x020 .word v] ∧
    programEvents (seta v) = [.hostWrite 0x024 .word v] ∧
    programEvents (setd v) = [.hostWrite 0x028 .word v]) ∧
  (∀ (v : Word) (g : List Nat), programEvents (reseed v g) =
    .hostWrite 0x030 .word v :: .hostWrite 0x004 .word 0x00000030 :: programEvents [.wait g]) ∧
  (∀ (k : Kind) (f a d : Word) (g h : List Nat), programEvents (tone k f a d g h) =
    [.hostWrite 0x020 .word f, .hostWrite 0x024 .word a, .hostWrite 0x004 .word (encode k.command)] ++
      programEvents [.wait g] ++ [.hostWrite 0x028 .word d, .hostWrite 0x004 .word 0x00000020] ++
      programEvents [.wait h]) ∧
  ∀ (f a c d : Word) (g h : List Nat), programEvents (tonep f a c d g h) =
    [.hostWrite 0x020 .word f, .hostWrite 0x024 .word a, .hostWrite 0x02C .word c,
      .hostWrite 0x004 .word 0x00000013] ++
      programEvents [.wait g] ++ [.hostWrite 0x028 .word d, .hostWrite 0x004 .word 0x00000020] ++
      programEvents [.wait h]

/-! ### Whole-machine rules -/

/-- R44: what a reset leaves, from any state and for any draw. Every register reads its reset value,
every window entry reads 0, the sequencer is idle with its indices 0, `irq` is 0, `PRNG` is the draw,
which is not 0 and can be any non-zero word, and `OUT` is unchanged. -/
def Obligations.ResetLeavesTheResetValues : Prop :=
  (∀ (s : State) (d : Fin 4294967295), ∃ t, takeEvent (.reset d) s = .next t ∧
    (∀ r : Reg, t.readReg r =
      match r with
      | .id => 0x434E4F31
      | .duty => 50
      | _ => 0) ∧
    t.run = .idle ∧ t.plat = 0 ∧ t.gidx = 0 ∧ t.sidx = 0 ∧ t.bph = .low ∧ t.irq = false ∧
    t.prng = prngOfDraw d ∧ t.prng ≠ 0 ∧ t.out = s.out) ∧
  ∀ w : Word, w ≠ 0 → ∃ d, prngOfDraw d = w

/-- The state after reset meets the invariant (R44, R46). -/
def Obligations.ResetStateMeetsTheInvariant : Prop := State.reset.Inv

/-- R46 as an invariant of the step: from every state that meets it, a step leads to one that does. -/
def Obligations.EveryStepKeepsTheInvariant : Prop :=
  ∀ s t : State, s.Inv → step s = .next t → t.Inv

/-- R104, R158 (no run step can fail), R112: in a state that meets the invariant the model's step always
answers a next state; neither of the model's own faults is reached. -/
def Obligations.InvariantStatesNeverStop : Prop := ∀ s : State, s.Inv → SafeStep s

/-- R40, R135 clause 3: a step changes `PRNG` only by a sample of a running noise generation, by the
`SEED` command, or by a reset. -/
def Obligations.OnlyNoiseSeedAndResetChangeTheGenerator : Prop :=
  ∀ s t : State, step s = .next t →
    t.prng = s.prng ∨
    (s.nextEvent = .sequencer ∧ s.run = .gen .noise ∧ t.prng = xs32 s.prng) ∨
    (s.nextEvent = .hostWrite 0x004 .word 0x00000030 ∧ s.Ready) ∨
    ∃ d, s.nextEvent = .reset d

/-- R23: `OUT` only grows, by one byte at a time, and only by the sequencer's step of a running `PACK`
whose consumer is ready. -/
def Obligations.OutputOnlyGrows : Prop :=
  ∀ s t : State, step s = .next t →
    t.out = s.out ∨
    (s.nextEvent = .sequencer ∧ s.run = .pack ∧ s.outReady = true ∧
      t.out = s.out ++ [s.offeredByte])

/-- R201 (an inference the spec draws from R194 and R200): while an error is recorded, no step but an
accepted `CLRERR`, which clears the record and records nothing, or a reset changes it. -/
def Obligations.FirstErrorIsKept : Prop :=
  ∀ s t : State, s.err = true → step s = .next t →
    (t.err = true ∧ t.errcode = s.errcode ∧ t.errcmd = s.errcmd) ∨
    (s.nextEvent = .hostWrite 0x004 .word 0x00000040 ∧ s.busy = false ∧
      t.err = false ∧ t.errcode = 0 ∧ t.errcmd = 0) ∨
    ∃ d, s.nextEvent = .reset d

/-- R205: `OVR` rises only on a dropped legal write, and once set only an accepted `CLRERR` or a reset
clears it. -/
def Obligations.OverrunIsStickyAndMarksDroppedWrites : Prop :=
  ∀ s t : State, step s = .next t →
    (s.ovr = true → t.ovr = true ∨
      (s.nextEvent = .hostWrite 0x004 .word 0x00000040 ∧ s.busy = false) ∨
      ∃ d, s.nextEvent = .reset d) ∧
    (s.ovr = false → t.ovr = true → ∃ a v r, s.nextEvent = .hostWrite a .word v ∧
      accessed s.cfg.cycleDepth a .word = some r ∧
      (s.busy = true ∨ (r = .cmd ∧ s.err = true ∧ v ≠ 0x00000040)))

/-- R27 to R31, R36, R41, R65: an operand register or `CTRL` changes only by a write to its own address
while nothing runs, or by a reset; while a command runs only a reset changes any of them. The
configuration changes in no step, not even a reset (R25, and log 5, the model's choice of its home). -/
def Obligations.OperandsChangeOnlyByTheirOwnWrites : Prop :=
  ∀ s t : State, step s = .next t → t.cfg = s.cfg ∧ ((∀ d, s.nextEvent ≠ .reset d) →
    (t.freq = s.freq ∨ (s.busy = false ∧ s.nextEvent = .hostWrite 0x020 .word t.freq)) ∧
    (t.amp = s.amp ∨ (s.busy = false ∧ s.nextEvent = .hostWrite 0x024 .word t.amp)) ∧
    (t.dur = s.dur ∨ (s.busy = false ∧ s.nextEvent = .hostWrite 0x028 .word t.dur)) ∧
    (t.duty = s.duty ∨ (s.busy = false ∧ ∃ v, s.nextEvent = .hostWrite 0x02C .word v)) ∧
    (t.seed = s.seed ∨ (s.busy = false ∧ s.nextEvent = .hostWrite 0x030 .word t.seed)) ∧
    (t.ctrl = s.ctrl ∨ (s.busy = false ∧ ∃ v, s.nextEvent = .hostWrite 0x014 .word v)))

/-- R39, R37, R38, R66: a step changes the cycle RAM only as a sample step of a running generation,
`PERIOD` only by a `GEN_*` command, its completion or a reset, and `NSAMP` only by `PACK` or a reset. -/
def Obligations.CycleIsWrittenByGenerationsOnly : Prop :=
  ∀ s t : State, step s = .next t → (∀ d, s.nextEvent ≠ .reset d) →
    ((∀ a, readByte t.cyc a = readByte s.cyc a) ∨
      (s.nextEvent = .sequencer ∧ (∃ k, s.run = .gen k) ∧
        ∀ a, a / 2 ≠ s.gidx.toNat → readByte t.cyc a = readByte s.cyc a)) ∧
    (t.period = s.period ∨
      (s.nextEvent = .sequencer ∧ (∃ k, s.run = .gen k) ∧ t.period = s.plat) ∨
      ((∃ k : Kind, s.nextEvent = .hostWrite 0x004 .word (encode k.command)) ∧ s.Ready ∧
        t.period = 0)) ∧
    (t.nsamp = s.nsamp ∨ (s.nextEvent = .hostWrite 0x004 .word 0x00000020 ∧ s.Ready))

/-- R110 clauses 2 and 3, R135 clause 1: the cycle a completed generation leaves depends on `FREQ`, the
clamped amplitude, the configuration, `DUTY` for a pulse and the generator's state for noise, and on
nothing else: two runs that agree there hold the same cycle, whatever else differs. -/
def Obligations.CycleDependsOnItsOperandsOnly : Prop :=
  ∀ (k : Kind) (s s' t t' : State) (p : Nat), s.Inv → s'.Inv → s.Ready → s'.Ready →
    s.freq = s'.freq → ampClamped s.amp = ampClamped s'.amp → s.cfg = s'.cfg →
    (k = .pulse → s.duty = s'.duty) → (k = .noise → s.prng = s'.prng) →
    1 ≤ s.freq.toNat → s.freq.toNat < 44100 * 65536 → p = 44100 * 65536 / s.freq.toNat →
    p ≤ s.cfg.cycleDepth → (k = .pulse → 1 ≤ s.duty.toNat ∧ s.duty.toNat ≤ 100) →
    exec k.command s = .next t → exec k.command s' = .next t' →
    ∃ u u', sequencerTurns p t = .next u ∧ sequencerTurns p t' = .next u' ∧
      u.period = u'.period ∧ (∀ i, u.window i = u'.window i) ∧ (k = .noise → u.prng = u'.prng)
end

