-- ==== Sys2Proof/Laws/Decode.lean ====
section
/-! SUPPORT. Decoding and encoding agree, in both directions. -/

namespace Sys2Proof

theorem fieldsOf_wordOf (c : Cmdw) : fieldsOf (wordOf c) = c := by
  obtain ⟨r, a, b⟩ := c
  simp only [fieldsOf, wordOf, Cmdw.mk.injEq]
  refine ⟨?_, ?_, ?_⟩ <;> apply BitVec.eq_of_getLsbD_eq <;> intro i hi <;>
    simp only [BitVec.getLsbD_append, BitVec.getLsbD_extractLsb'] <;>
    simp [hi, show ¬ (8 + i < 4) by omega, show ¬ (8 + i - 4 < 4) by omega,
      show 8 + i - 4 - 4 = i by omega, show ¬ (4 + i < 4) by omega, show 4 + i - 4 = i by omega]

theorem wordOf_fieldsOf (w : Word) : wordOf (fieldsOf w) = w := by
  apply BitVec.eq_of_getLsbD_eq
  intro i hi
  simp only [fieldsOf, wordOf, BitVec.getLsbD_append, BitVec.getLsbD_extractLsb']
  by_cases h1 : i < 4
  · simp [h1]
  · by_cases h2 : i - 4 < 4
    · simp [h1, h2, show 4 + (i - 4) = i by omega]
    · simp [h1, h2, show i - 4 - 4 < 24 by omega, show 8 + (i - 4 - 4) = i by omega]

/-- The word column of R81 has the fields of its MAJ and MIN columns. -/
theorem encode_eq_wordOf (i : Instr) : encode i = wordOf i.cmdw := by
  cases i <;> rfl

theorem decodeFields_eq_ok {a b : Nat} {i : Instr} (h : decodeFields a b = .ok i) :
    a = i.cmdw.major.toNat ∧ b = i.cmdw.minor.toNat := by
  unfold decodeFields at h
  split at h <;> cases h <;> exact ⟨rfl, rfl⟩

theorem decode_encode (i : Instr) : decode (encode i) = .ok i := by
  cases i <;> rfl

/-- Only a command's own word decodes to it. -/
theorem eq_encode_of_decode {w : Word} {i : Instr} (h : decode w = .ok i) : w = encode i := by
  unfold decode at h
  split at h
  · next hr =>
    obtain ⟨h1, h2⟩ := decodeFields_eq_ok h
    have hf : fieldsOf w = i.cmdw := by
      have h0 : i.cmdw.rsv = 0 := by cases i <;> rfl
      cases hw : fieldsOf w with
      | mk r a b =>
        cases hc : i.cmdw with
        | mk r' a' b' =>
          simp only [hw, hc] at hr h1 h2 h0
          simp only [Cmdw.mk.injEq]
          exact ⟨hr.trans h0.symm, BitVec.eq_of_toNat_eq h1, BitVec.eq_of_toNat_eq h2⟩
    rw [encode_eq_wordOf, ← hf, wordOf_fieldsOf]
  · cases h

theorem encode_injective {i j : Instr} (h : encode i = encode j) : i = j := by
  have := decode_encode i
  rw [h, decode_encode j] at this
  cases this
  rfl

end Sys2Proof
end

