-- ==== Sys2Proof/Laws/Memory.lean ====
section
/-! SUPPORT. The laws of stored memory and of the cycle RAM over it: a read after a write, the canonical
form, the bound on addresses. -/

namespace Sys2Proof.Machine

theorem readByte_nil (i : Nat) : readByte [] i = unlistedByte := rfl

theorem Memory.wf_cons {a : Nat} {v : Byte} {rest : Memory} :
    Memory.wf ((a, v) :: rest) = true ↔
      v ≠ unlistedByte ∧ (∀ c ∈ rest, a < c.1) ∧ Memory.wf rest = true := by
  simp [Memory.wf, and_assoc]

/-- Below every listed address nothing is listed. -/
theorem readByte_of_all_gt {m : Memory} {i : Nat} (h : ∀ c ∈ m, i < c.1) :
    readByte m i = unlistedByte := by
  induction m with
  | nil => rfl
  | cons c rest ih =>
    obtain ⟨a, v⟩ := c
    have ha : i < a := h (a, v) (by simp)
    simp only [readByte, if_neg (by omega : ¬ a = i)]
    exact ih fun c hc => h c (by simp [hc])

/-- A byte reads back what was written to it. -/
theorem readByte_writeByte_same {m : Memory} (hm : Memory.wf m = true) (i : Nat) (v : Byte) :
    readByte (writeByte m i v) i = v := by
  induction m with
  | nil =>
    by_cases hv : v = unlistedByte <;> simp [writeByte, hv, readByte]
  | cons c rest ih =>
    obtain ⟨a, w⟩ := c
    obtain ⟨-, hgt, hrest⟩ := Memory.wf_cons.1 hm
    simp only [writeByte]
    split_ifs with h1 h2 h3 h3
    · simp only [readByte, if_neg (by omega : ¬ a = i)]
      exact ih hrest
    · subst h2 h3
      exact readByte_of_all_gt hgt
    · simp [readByte]
    · subst h3
      refine readByte_of_all_gt fun c hc => ?_
      rcases List.mem_cons.1 hc with rfl | hc
      · show i < a
        omega
      · have := hgt c hc
        omega
    · simp [readByte]

/-- A write leaves every other byte alone, in any list. -/
theorem readByte_writeByte_ne (m : Memory) {i j : Nat} (h : j ≠ i) (v : Byte) :
    readByte (writeByte m i v) j = readByte m j := by
  induction m with
  | nil =>
    by_cases hv : v = unlistedByte <;> simp [writeByte, hv, readByte, Ne.symm h]
  | cons c rest ih =>
    obtain ⟨a, w⟩ := c
    simp only [writeByte]
    split_ifs with h1 h2 h3 h3
    · simp only [readByte, ih]
    · simp [readByte, h2, Ne.symm h]
    · simp [readByte, h2, Ne.symm h]
    · rfl
    · simp [readByte, Ne.symm h]

theorem mem_writeByte {m : Memory} {i : Nat} {v : Byte} {c : Host.Cell}
    (h : c ∈ writeByte m i v) : c ∈ m ∨ c = (i, v) := by
  induction m with
  | nil =>
    by_cases hv : v = unlistedByte <;> simp_all [writeByte]
  | cons d rest ih =>
    obtain ⟨a, w⟩ := d
    simp only [writeByte] at h
    split_ifs at h with h1 h2 h3 h3 <;> simp only [List.mem_cons] at h ⊢
    · rcases h with h | h
      · exact .inl (.inl h)
      · exact (ih h).imp .inr id
    · exact .inl (.inr h)
    · tauto
    · tauto
    · tauto

/-- A write keeps the canonical form. -/
theorem writeByte_wf {m : Memory} (hm : Memory.wf m = true) (i : Nat) (v : Byte) :
    Memory.wf (writeByte m i v) = true := by
  induction m with
  | nil =>
    by_cases hv : v = unlistedByte <;> simp [writeByte, hv, Memory.wf]
  | cons c rest ih =>
    obtain ⟨a, w⟩ := c
    obtain ⟨hw, hgt, hrest⟩ := Memory.wf_cons.1 hm
    simp only [writeByte]
    split_ifs with h1 h2 h3 h3
    · refine Memory.wf_cons.2 ⟨hw, fun c hc => ?_, ih hrest⟩
      rcases mem_writeByte hc with hc | rfl
      · exact hgt c hc
      · exact h1
    · exact hrest
    · subst h2
      exact Memory.wf_cons.2 ⟨h3, hgt, hrest⟩
    · exact hm
    · refine Memory.wf_cons.2 ⟨h3, fun c hc => ?_, hm⟩
      rcases List.mem_cons.1 hc with rfl | hc
      · show i < a
        omega
      · have := hgt c hc
        omega

/-- A write below the bound keeps every address below it. -/
theorem writeByte_within {m : Memory} {d i : Nat} (hm : Memory.within d m = true) (hi : i < 2 * d)
    (v : Byte) : Memory.within d (writeByte m i v) = true := by
  simp only [Memory.within, List.all_eq_true, decide_eq_true_eq] at hm ⊢
  intro c hc
  rcases mem_writeByte hc with hc | rfl
  · exact hm c hc
  · exact hi

theorem writeEntry_wf {m : Memory} (hm : Memory.wf m = true) (i : Nat) (q : Half) :
    Memory.wf (writeEntry m i q) = true :=
  writeByte_wf (writeByte_wf hm _ _) _ _

theorem writeEntry_within {m : Memory} {d i : Nat} (hm : Memory.within d m = true) (hi : i < d)
    (q : Half) : Memory.within d (writeEntry m i q) = true :=
  writeByte_within (writeByte_within hm (by omega) _) (by omega) _

theorem half_of_bytes (q : Half) : q.extractLsb' 8 8 ++ q.extractLsb' 0 8 = q := by
  apply BitVec.eq_of_getLsbD_eq
  intro i hi
  simp only [BitVec.getLsbD_append, BitVec.getLsbD_extractLsb']
  by_cases h : i < 8
  · simp [h]
  · simp [h, show i - 8 < 8 by omega, show 8 + (i - 8) = i by omega]

/-- An entry reads back what was written to it. -/
theorem readEntry_writeEntry_same {m : Memory} (hm : Memory.wf m = true) (i : Nat) (q : Half) :
    readEntry (writeEntry m i q) i = q := by
  simp only [readEntry, writeEntry]
  rw [readByte_writeByte_same (writeByte_wf hm _ _), readByte_writeByte_ne _ (by omega),
    readByte_writeByte_same hm]
  exact half_of_bytes q

/-- A write leaves every other entry alone. -/
theorem readEntry_writeEntry_ne (m : Memory) {i j : Nat} (h : j ≠ i) (q : Half) :
    readEntry (writeEntry m i q) j = readEntry m j := by
  simp only [readEntry, writeEntry]
  rw [readByte_writeByte_ne _ (by omega), readByte_writeByte_ne _ (by omega),
    readByte_writeByte_ne _ (by omega), readByte_writeByte_ne _ (by omega)]

end Sys2Proof.Machine
end

