-- ==== Sys2Proof/Laws/Noise.lean ====
section
/-! SUPPORT. The laws of the generator (R130, R131): each of its three lines is invertible. -/

namespace Sys2Proof.Machine

theorem xor_shiftLeft_injective {n : Nat} (hn : 0 < n) :
    Function.Injective (fun x : Word => x ^^^ (x <<< n)) := by
  intro x y h
  have hb : ∀ i, x.getLsbD i = y.getLsbD i := by
    intro i
    induction i using Nat.strong_induction_on with
    | _ i ih =>
      have hi := congrArg (fun w : Word => w.getLsbD i) h
      simp only [BitVec.getLsbD_xor, BitVec.getLsbD_shiftLeft] at hi
      by_cases hlt : i < 32
      · by_cases hin : i < n
        · simpa [hlt, hin] using hi
        · rw [ih (i - n) (by omega)] at hi
          simpa using hi
      · simp [BitVec.getLsbD_of_ge _ _ (Nat.not_lt.1 hlt)]
  exact BitVec.eq_of_getLsbD_eq fun i _ => hb i

theorem xor_ushiftRight_injective {n : Nat} (hn : 0 < n) :
    Function.Injective (fun x : Word => x ^^^ (x >>> n)) := by
  intro x y h
  have hb : ∀ k i, 32 - i ≤ k → x.getLsbD i = y.getLsbD i := by
    intro k
    induction k with
    | zero =>
      intro i hi
      simp [BitVec.getLsbD_of_ge _ _ (show 32 ≤ i by omega)]
    | succ k ih =>
      intro i hi
      by_cases hlt : i < 32
      · have he := congrArg (fun w : Word => w.getLsbD i) h
        simp only [BitVec.getLsbD_xor, BitVec.getLsbD_ushiftRight] at he
        rw [ih (n + i) (by omega)] at he
        simpa using he
      · simp [BitVec.getLsbD_of_ge _ _ (Nat.not_lt.1 hlt)]
  exact BitVec.eq_of_getLsbD_eq fun i _ => hb 32 i (by omega)

theorem xs32_eq (x : Word) :
    xs32 x = (fun z : Word => z ^^^ (z <<< 5)) ((fun y : Word => y ^^^ (y >>> 17))
      ((fun x : Word => x ^^^ (x <<< 13)) x)) := rfl

theorem xs32_injective : Function.Injective xs32 := by
  intro x y h
  rw [xs32_eq, xs32_eq] at h
  exact xor_shiftLeft_injective (by omega)
    (xor_ushiftRight_injective (by omega) (xor_shiftLeft_injective (by omega) h))

theorem xs32_zero : xs32 0 = 0 := by decide

/-- The generator never leaves the non-zero words (R130). -/
theorem xs32_ne_zero {x : Word} (h : x ≠ 0) : xs32 x ≠ 0 := by
  intro he
  exact h (xs32_injective (he.trans xs32_zero.symm))

/-- The uniform value from the state as a number: the upper half, as two's complement, over 32768. -/
theorem uniformOf_upper (x : Word) :
    uniformOf x = (if x.toNat / 65536 < 32768 then ((x.toNat / 65536 : Nat) : Rat)
      else ((x.toNat / 65536 : Nat) : Rat) - 65536) / 32768 := by
  have hx := x.isLt
  have hn : (x.extractLsb' 16 16).toNat = x.toNat / 65536 := by
    rw [BitVec.extractLsb'_toNat, Nat.shiftRight_eq_div_pow]
    omega
  unfold uniformOf
  rw [BitVec.toInt_eq_toNat_cond, hn]
  split_ifs <;> first | omega | (push_cast; rfl)

theorem uniformOf_range (x : Word) : -1 ≤ uniformOf x ∧ uniformOf x ≤ 32767 / 32768 := by
  unfold uniformOf
  generalize x.extractLsb' 16 16 = h
  have h1 : -32768 ≤ h.toInt := by have := BitVec.le_toInt h; omega
  have h2 : h.toInt ≤ 32767 := by have := BitVec.toInt_lt (x := h); omega
  have h3 : (-32768 : Rat) ≤ (h.toInt : Rat) := by exact_mod_cast h1
  have h4 : (h.toInt : Rat) ≤ 32767 := by exact_mod_cast h2
  constructor
  · rw [le_div_iff₀ (by norm_num)]; linarith
  · rw [div_le_div_iff_of_pos_right (by norm_num)]; exact h4

theorem seedValue_ne_zero (v : Word) : seedValue v ≠ 0 := by
  unfold seedValue
  split
  · decide
  · assumption

end Sys2Proof.Machine
end

