-- ==== Sys2Proof/Laws/State.lean ====
section
/-! SUPPORT. One lemma per field and named update of the state, true by rfl, so that no proof unfolds a
record update. -/

namespace Sys2Proof.Machine

variable (s : State)

/-! ### `State.dropWrite` -/

@[simp] theorem State.dropWrite_done : (s.dropWrite).done = s.done := rfl
@[simp] theorem State.dropWrite_err : (s.dropWrite).err = s.err := rfl
@[simp] theorem State.dropWrite_ovr : (s.dropWrite).ovr = true := rfl
@[simp] theorem State.dropWrite_errcode : (s.dropWrite).errcode = s.errcode := rfl
@[simp] theorem State.dropWrite_errcmd : (s.dropWrite).errcmd = s.errcmd := rfl
@[simp] theorem State.dropWrite_ctrl : (s.dropWrite).ctrl = s.ctrl := rfl
@[simp] theorem State.dropWrite_freq : (s.dropWrite).freq = s.freq := rfl
@[simp] theorem State.dropWrite_amp : (s.dropWrite).amp = s.amp := rfl
@[simp] theorem State.dropWrite_dur : (s.dropWrite).dur = s.dur := rfl
@[simp] theorem State.dropWrite_duty : (s.dropWrite).duty = s.duty := rfl
@[simp] theorem State.dropWrite_seed : (s.dropWrite).seed = s.seed := rfl
@[simp] theorem State.dropWrite_period : (s.dropWrite).period = s.period := rfl
@[simp] theorem State.dropWrite_nsamp : (s.dropWrite).nsamp = s.nsamp := rfl
@[simp] theorem State.dropWrite_cyc : (s.dropWrite).cyc = s.cyc := rfl
@[simp] theorem State.dropWrite_prng : (s.dropWrite).prng = s.prng := rfl
@[simp] theorem State.dropWrite_run : (s.dropWrite).run = s.run := rfl
@[simp] theorem State.dropWrite_plat : (s.dropWrite).plat = s.plat := rfl
@[simp] theorem State.dropWrite_gidx : (s.dropWrite).gidx = s.gidx := rfl
@[simp] theorem State.dropWrite_sidx : (s.dropWrite).sidx = s.sidx := rfl
@[simp] theorem State.dropWrite_bph : (s.dropWrite).bph = s.bph := rfl
@[simp] theorem State.dropWrite_out : (s.dropWrite).out = s.out := rfl
@[simp] theorem State.dropWrite_cfg : (s.dropWrite).cfg = s.cfg := rfl
@[simp] theorem State.dropWrite_schedule : (s.dropWrite).schedule = s.schedule := rfl
@[simp] theorem State.dropWrite_outReady : (s.dropWrite).outReady = s.outReady := rfl
@[simp] theorem State.dropWrite_reply : (s.dropWrite).reply = s.reply := rfl

/-! ### `State.accept` -/

@[simp] theorem State.accept_done : (s.accept).done = false := rfl
@[simp] theorem State.accept_err : (s.accept).err = s.err := rfl
@[simp] theorem State.accept_ovr : (s.accept).ovr = s.ovr := rfl
@[simp] theorem State.accept_errcode : (s.accept).errcode = s.errcode := rfl
@[simp] theorem State.accept_errcmd : (s.accept).errcmd = s.errcmd := rfl
@[simp] theorem State.accept_ctrl : (s.accept).ctrl = s.ctrl := rfl
@[simp] theorem State.accept_freq : (s.accept).freq = s.freq := rfl
@[simp] theorem State.accept_amp : (s.accept).amp = s.amp := rfl
@[simp] theorem State.accept_dur : (s.accept).dur = s.dur := rfl
@[simp] theorem State.accept_duty : (s.accept).duty = s.duty := rfl
@[simp] theorem State.accept_seed : (s.accept).seed = s.seed := rfl
@[simp] theorem State.accept_period : (s.accept).period = s.period := rfl
@[simp] theorem State.accept_nsamp : (s.accept).nsamp = s.nsamp := rfl
@[simp] theorem State.accept_cyc : (s.accept).cyc = s.cyc := rfl
@[simp] theorem State.accept_prng : (s.accept).prng = s.prng := rfl
@[simp] theorem State.accept_run : (s.accept).run = s.run := rfl
@[simp] theorem State.accept_plat : (s.accept).plat = s.plat := rfl
@[simp] theorem State.accept_gidx : (s.accept).gidx = s.gidx := rfl
@[simp] theorem State.accept_sidx : (s.accept).sidx = s.sidx := rfl
@[simp] theorem State.accept_bph : (s.accept).bph = s.bph := rfl
@[simp] theorem State.accept_out : (s.accept).out = s.out := rfl
@[simp] theorem State.accept_cfg : (s.accept).cfg = s.cfg := rfl
@[simp] theorem State.accept_schedule : (s.accept).schedule = s.schedule := rfl
@[simp] theorem State.accept_outReady : (s.accept).outReady = s.outReady := rfl
@[simp] theorem State.accept_reply : (s.accept).reply = s.reply := rfl

/-! ### `State.markDone` -/

@[simp] theorem State.markDone_done : (s.markDone).done = true := rfl
@[simp] theorem State.markDone_err : (s.markDone).err = s.err := rfl
@[simp] theorem State.markDone_ovr : (s.markDone).ovr = s.ovr := rfl
@[simp] theorem State.markDone_errcode : (s.markDone).errcode = s.errcode := rfl
@[simp] theorem State.markDone_errcmd : (s.markDone).errcmd = s.errcmd := rfl
@[simp] theorem State.markDone_ctrl : (s.markDone).ctrl = s.ctrl := rfl
@[simp] theorem State.markDone_freq : (s.markDone).freq = s.freq := rfl
@[simp] theorem State.markDone_amp : (s.markDone).amp = s.amp := rfl
@[simp] theorem State.markDone_dur : (s.markDone).dur = s.dur := rfl
@[simp] theorem State.markDone_duty : (s.markDone).duty = s.duty := rfl
@[simp] theorem State.markDone_seed : (s.markDone).seed = s.seed := rfl
@[simp] theorem State.markDone_period : (s.markDone).period = s.period := rfl
@[simp] theorem State.markDone_nsamp : (s.markDone).nsamp = s.nsamp := rfl
@[simp] theorem State.markDone_cyc : (s.markDone).cyc = s.cyc := rfl
@[simp] theorem State.markDone_prng : (s.markDone).prng = s.prng := rfl
@[simp] theorem State.markDone_run : (s.markDone).run = s.run := rfl
@[simp] theorem State.markDone_plat : (s.markDone).plat = s.plat := rfl
@[simp] theorem State.markDone_gidx : (s.markDone).gidx = s.gidx := rfl
@[simp] theorem State.markDone_sidx : (s.markDone).sidx = s.sidx := rfl
@[simp] theorem State.markDone_bph : (s.markDone).bph = s.bph := rfl
@[simp] theorem State.markDone_out : (s.markDone).out = s.out := rfl
@[simp] theorem State.markDone_cfg : (s.markDone).cfg = s.cfg := rfl
@[simp] theorem State.markDone_schedule : (s.markDone).schedule = s.schedule := rfl
@[simp] theorem State.markDone_outReady : (s.markDone).outReady = s.outReady := rfl
@[simp] theorem State.markDone_reply : (s.markDone).reply = s.reply := rfl

/-! ### `State.clearRecord` -/

@[simp] theorem State.clearRecord_done : (s.clearRecord).done = s.done := rfl
@[simp] theorem State.clearRecord_err : (s.clearRecord).err = false := rfl
@[simp] theorem State.clearRecord_ovr : (s.clearRecord).ovr = false := rfl
@[simp] theorem State.clearRecord_errcode : (s.clearRecord).errcode = 0 := rfl
@[simp] theorem State.clearRecord_errcmd : (s.clearRecord).errcmd = 0 := rfl
@[simp] theorem State.clearRecord_ctrl : (s.clearRecord).ctrl = s.ctrl := rfl
@[simp] theorem State.clearRecord_freq : (s.clearRecord).freq = s.freq := rfl
@[simp] theorem State.clearRecord_amp : (s.clearRecord).amp = s.amp := rfl
@[simp] theorem State.clearRecord_dur : (s.clearRecord).dur = s.dur := rfl
@[simp] theorem State.clearRecord_duty : (s.clearRecord).duty = s.duty := rfl
@[simp] theorem State.clearRecord_seed : (s.clearRecord).seed = s.seed := rfl
@[simp] theorem State.clearRecord_period : (s.clearRecord).period = s.period := rfl
@[simp] theorem State.clearRecord_nsamp : (s.clearRecord).nsamp = s.nsamp := rfl
@[simp] theorem State.clearRecord_cyc : (s.clearRecord).cyc = s.cyc := rfl
@[simp] theorem State.clearRecord_prng : (s.clearRecord).prng = s.prng := rfl
@[simp] theorem State.clearRecord_run : (s.clearRecord).run = s.run := rfl
@[simp] theorem State.clearRecord_plat : (s.clearRecord).plat = s.plat := rfl
@[simp] theorem State.clearRecord_gidx : (s.clearRecord).gidx = s.gidx := rfl
@[simp] theorem State.clearRecord_sidx : (s.clearRecord).sidx = s.sidx := rfl
@[simp] theorem State.clearRecord_bph : (s.clearRecord).bph = s.bph := rfl
@[simp] theorem State.clearRecord_out : (s.clearRecord).out = s.out := rfl
@[simp] theorem State.clearRecord_cfg : (s.clearRecord).cfg = s.cfg := rfl
@[simp] theorem State.clearRecord_schedule : (s.clearRecord).schedule = s.schedule := rfl
@[simp] theorem State.clearRecord_outReady : (s.clearRecord).outReady = s.outReady := rfl
@[simp] theorem State.clearRecord_reply : (s.clearRecord).reply = s.reply := rfl

/-! ### `State.startGen` -/

@[simp] theorem State.startGen_done (k : Kind) (p : Word) : (s.startGen k p).done = s.done := rfl
@[simp] theorem State.startGen_err (k : Kind) (p : Word) : (s.startGen k p).err = s.err := rfl
@[simp] theorem State.startGen_ovr (k : Kind) (p : Word) : (s.startGen k p).ovr = s.ovr := rfl
@[simp] theorem State.startGen_errcode (k : Kind) (p : Word) : (s.startGen k p).errcode = s.errcode := rfl
@[simp] theorem State.startGen_errcmd (k : Kind) (p : Word) : (s.startGen k p).errcmd = s.errcmd := rfl
@[simp] theorem State.startGen_ctrl (k : Kind) (p : Word) : (s.startGen k p).ctrl = s.ctrl := rfl
@[simp] theorem State.startGen_freq (k : Kind) (p : Word) : (s.startGen k p).freq = s.freq := rfl
@[simp] theorem State.startGen_amp (k : Kind) (p : Word) : (s.startGen k p).amp = s.amp := rfl
@[simp] theorem State.startGen_dur (k : Kind) (p : Word) : (s.startGen k p).dur = s.dur := rfl
@[simp] theorem State.startGen_duty (k : Kind) (p : Word) : (s.startGen k p).duty = s.duty := rfl
@[simp] theorem State.startGen_seed (k : Kind) (p : Word) : (s.startGen k p).seed = s.seed := rfl
@[simp] theorem State.startGen_period (k : Kind) (p : Word) : (s.startGen k p).period = 0 := rfl
@[simp] theorem State.startGen_nsamp (k : Kind) (p : Word) : (s.startGen k p).nsamp = s.nsamp := rfl
@[simp] theorem State.startGen_cyc (k : Kind) (p : Word) : (s.startGen k p).cyc = s.cyc := rfl
@[simp] theorem State.startGen_prng (k : Kind) (p : Word) : (s.startGen k p).prng = s.prng := rfl
@[simp] theorem State.startGen_run (k : Kind) (p : Word) : (s.startGen k p).run = .gen k := rfl
@[simp] theorem State.startGen_plat (k : Kind) (p : Word) : (s.startGen k p).plat = p := rfl
@[simp] theorem State.startGen_gidx (k : Kind) (p : Word) : (s.startGen k p).gidx = 0 := rfl
@[simp] theorem State.startGen_sidx (k : Kind) (p : Word) : (s.startGen k p).sidx = s.sidx := rfl
@[simp] theorem State.startGen_bph (k : Kind) (p : Word) : (s.startGen k p).bph = s.bph := rfl
@[simp] theorem State.startGen_out (k : Kind) (p : Word) : (s.startGen k p).out = s.out := rfl
@[simp] theorem State.startGen_cfg (k : Kind) (p : Word) : (s.startGen k p).cfg = s.cfg := rfl
@[simp] theorem State.startGen_schedule (k : Kind) (p : Word) : (s.startGen k p).schedule = s.schedule := rfl
@[simp] theorem State.startGen_outReady (k : Kind) (p : Word) : (s.startGen k p).outReady = s.outReady := rfl
@[simp] theorem State.startGen_reply (k : Kind) (p : Word) : (s.startGen k p).reply = s.reply := rfl

/-! ### `State.finishGen` -/

@[simp] theorem State.finishGen_done : (s.finishGen).done = true := rfl
@[simp] theorem State.finishGen_err : (s.finishGen).err = s.err := rfl
@[simp] theorem State.finishGen_ovr : (s.finishGen).ovr = s.ovr := rfl
@[simp] theorem State.finishGen_errcode : (s.finishGen).errcode = s.errcode := rfl
@[simp] theorem State.finishGen_errcmd : (s.finishGen).errcmd = s.errcmd := rfl
@[simp] theorem State.finishGen_ctrl : (s.finishGen).ctrl = s.ctrl := rfl
@[simp] theorem State.finishGen_freq : (s.finishGen).freq = s.freq := rfl
@[simp] theorem State.finishGen_amp : (s.finishGen).amp = s.amp := rfl
@[simp] theorem State.finishGen_dur : (s.finishGen).dur = s.dur := rfl
@[simp] theorem State.finishGen_duty : (s.finishGen).duty = s.duty := rfl
@[simp] theorem State.finishGen_seed : (s.finishGen).seed = s.seed := rfl
@[simp] theorem State.finishGen_period : (s.finishGen).period = s.plat := rfl
@[simp] theorem State.finishGen_nsamp : (s.finishGen).nsamp = s.nsamp := rfl
@[simp] theorem State.finishGen_cyc : (s.finishGen).cyc = s.cyc := rfl
@[simp] theorem State.finishGen_prng : (s.finishGen).prng = s.prng := rfl
@[simp] theorem State.finishGen_run : (s.finishGen).run = .idle := rfl
@[simp] theorem State.finishGen_plat : (s.finishGen).plat = s.plat := rfl
@[simp] theorem State.finishGen_gidx : (s.finishGen).gidx = s.gidx := rfl
@[simp] theorem State.finishGen_sidx : (s.finishGen).sidx = s.sidx := rfl
@[simp] theorem State.finishGen_bph : (s.finishGen).bph = s.bph := rfl
@[simp] theorem State.finishGen_out : (s.finishGen).out = s.out := rfl
@[simp] theorem State.finishGen_cfg : (s.finishGen).cfg = s.cfg := rfl
@[simp] theorem State.finishGen_schedule : (s.finishGen).schedule = s.schedule := rfl
@[simp] theorem State.finishGen_outReady : (s.finishGen).outReady = s.outReady := rfl
@[simp] theorem State.finishGen_reply : (s.finishGen).reply = s.reply := rfl

/-! ### `State.setCount` -/

@[simp] theorem State.setCount_done (n : Word) : (s.setCount n).done = s.done := rfl
@[simp] theorem State.setCount_err (n : Word) : (s.setCount n).err = s.err := rfl
@[simp] theorem State.setCount_ovr (n : Word) : (s.setCount n).ovr = s.ovr := rfl
@[simp] theorem State.setCount_errcode (n : Word) : (s.setCount n).errcode = s.errcode := rfl
@[simp] theorem State.setCount_errcmd (n : Word) : (s.setCount n).errcmd = s.errcmd := rfl
@[simp] theorem State.setCount_ctrl (n : Word) : (s.setCount n).ctrl = s.ctrl := rfl
@[simp] theorem State.setCount_freq (n : Word) : (s.setCount n).freq = s.freq := rfl
@[simp] theorem State.setCount_amp (n : Word) : (s.setCount n).amp = s.amp := rfl
@[simp] theorem State.setCount_dur (n : Word) : (s.setCount n).dur = s.dur := rfl
@[simp] theorem State.setCount_duty (n : Word) : (s.setCount n).duty = s.duty := rfl
@[simp] theorem State.setCount_seed (n : Word) : (s.setCount n).seed = s.seed := rfl
@[simp] theorem State.setCount_period (n : Word) : (s.setCount n).period = s.period := rfl
@[simp] theorem State.setCount_nsamp (n : Word) : (s.setCount n).nsamp = n := rfl
@[simp] theorem State.setCount_cyc (n : Word) : (s.setCount n).cyc = s.cyc := rfl
@[simp] theorem State.setCount_prng (n : Word) : (s.setCount n).prng = s.prng := rfl
@[simp] theorem State.setCount_run (n : Word) : (s.setCount n).run = s.run := rfl
@[simp] theorem State.setCount_plat (n : Word) : (s.setCount n).plat = s.plat := rfl
@[simp] theorem State.setCount_gidx (n : Word) : (s.setCount n).gidx = s.gidx := rfl
@[simp] theorem State.setCount_sidx (n : Word) : (s.setCount n).sidx = s.sidx := rfl
@[simp] theorem State.setCount_bph (n : Word) : (s.setCount n).bph = s.bph := rfl
@[simp] theorem State.setCount_out (n : Word) : (s.setCount n).out = s.out := rfl
@[simp] theorem State.setCount_cfg (n : Word) : (s.setCount n).cfg = s.cfg := rfl
@[simp] theorem State.setCount_schedule (n : Word) : (s.setCount n).schedule = s.schedule := rfl
@[simp] theorem State.setCount_outReady (n : Word) : (s.setCount n).outReady = s.outReady := rfl
@[simp] theorem State.setCount_reply (n : Word) : (s.setCount n).reply = s.reply := rfl

/-! ### `State.startPack` -/

@[simp] theorem State.startPack_done : (s.startPack).done = s.done := rfl
@[simp] theorem State.startPack_err : (s.startPack).err = s.err := rfl
@[simp] theorem State.startPack_ovr : (s.startPack).ovr = s.ovr := rfl
@[simp] theorem State.startPack_errcode : (s.startPack).errcode = s.errcode := rfl
@[simp] theorem State.startPack_errcmd : (s.startPack).errcmd = s.errcmd := rfl
@[simp] theorem State.startPack_ctrl : (s.startPack).ctrl = s.ctrl := rfl
@[simp] theorem State.startPack_freq : (s.startPack).freq = s.freq := rfl
@[simp] theorem State.startPack_amp : (s.startPack).amp = s.amp := rfl
@[simp] theorem State.startPack_dur : (s.startPack).dur = s.dur := rfl
@[simp] theorem State.startPack_duty : (s.startPack).duty = s.duty := rfl
@[simp] theorem State.startPack_seed : (s.startPack).seed = s.seed := rfl
@[simp] theorem State.startPack_period : (s.startPack).period = s.period := rfl
@[simp] theorem State.startPack_nsamp : (s.startPack).nsamp = s.nsamp := rfl
@[simp] theorem State.startPack_cyc : (s.startPack).cyc = s.cyc := rfl
@[simp] theorem State.startPack_prng : (s.startPack).prng = s.prng := rfl
@[simp] theorem State.startPack_run : (s.startPack).run = .pack := rfl
@[simp] theorem State.startPack_plat : (s.startPack).plat = s.plat := rfl
@[simp] theorem State.startPack_gidx : (s.startPack).gidx = s.gidx := rfl
@[simp] theorem State.startPack_sidx : (s.startPack).sidx = 0 := rfl
@[simp] theorem State.startPack_bph : (s.startPack).bph = .low := rfl
@[simp] theorem State.startPack_out : (s.startPack).out = s.out := rfl
@[simp] theorem State.startPack_cfg : (s.startPack).cfg = s.cfg := rfl
@[simp] theorem State.startPack_schedule : (s.startPack).schedule = s.schedule := rfl
@[simp] theorem State.startPack_outReady : (s.startPack).outReady = s.outReady := rfl
@[simp] theorem State.startPack_reply : (s.startPack).reply = s.reply := rfl

/-! ### `State.finishPack` -/

@[simp] theorem State.finishPack_done : (s.finishPack).done = true := rfl
@[simp] theorem State.finishPack_err : (s.finishPack).err = s.err := rfl
@[simp] theorem State.finishPack_ovr : (s.finishPack).ovr = s.ovr := rfl
@[simp] theorem State.finishPack_errcode : (s.finishPack).errcode = s.errcode := rfl
@[simp] theorem State.finishPack_errcmd : (s.finishPack).errcmd = s.errcmd := rfl
@[simp] theorem State.finishPack_ctrl : (s.finishPack).ctrl = s.ctrl := rfl
@[simp] theorem State.finishPack_freq : (s.finishPack).freq = s.freq := rfl
@[simp] theorem State.finishPack_amp : (s.finishPack).amp = s.amp := rfl
@[simp] theorem State.finishPack_dur : (s.finishPack).dur = s.dur := rfl
@[simp] theorem State.finishPack_duty : (s.finishPack).duty = s.duty := rfl
@[simp] theorem State.finishPack_seed : (s.finishPack).seed = s.seed := rfl
@[simp] theorem State.finishPack_period : (s.finishPack).period = s.period := rfl
@[simp] theorem State.finishPack_nsamp : (s.finishPack).nsamp = s.nsamp := rfl
@[simp] theorem State.finishPack_cyc : (s.finishPack).cyc = s.cyc := rfl
@[simp] theorem State.finishPack_prng : (s.finishPack).prng = s.prng := rfl
@[simp] theorem State.finishPack_run : (s.finishPack).run = .idle := rfl
@[simp] theorem State.finishPack_plat : (s.finishPack).plat = s.plat := rfl
@[simp] theorem State.finishPack_gidx : (s.finishPack).gidx = s.gidx := rfl
@[simp] theorem State.finishPack_sidx : (s.finishPack).sidx = s.sidx := rfl
@[simp] theorem State.finishPack_bph : (s.finishPack).bph = s.bph := rfl
@[simp] theorem State.finishPack_out : (s.finishPack).out = s.out := rfl
@[simp] theorem State.finishPack_cfg : (s.finishPack).cfg = s.cfg := rfl
@[simp] theorem State.finishPack_schedule : (s.finishPack).schedule = s.schedule := rfl
@[simp] theorem State.finishPack_outReady : (s.finishPack).outReady = s.outReady := rfl
@[simp] theorem State.finishPack_reply : (s.finishPack).reply = s.reply := rfl

/-! ### `State.emit` -/

@[simp] theorem State.emit_done (b : OutByte) : (s.emit b).done = s.done := rfl
@[simp] theorem State.emit_err (b : OutByte) : (s.emit b).err = s.err := rfl
@[simp] theorem State.emit_ovr (b : OutByte) : (s.emit b).ovr = s.ovr := rfl
@[simp] theorem State.emit_errcode (b : OutByte) : (s.emit b).errcode = s.errcode := rfl
@[simp] theorem State.emit_errcmd (b : OutByte) : (s.emit b).errcmd = s.errcmd := rfl
@[simp] theorem State.emit_ctrl (b : OutByte) : (s.emit b).ctrl = s.ctrl := rfl
@[simp] theorem State.emit_freq (b : OutByte) : (s.emit b).freq = s.freq := rfl
@[simp] theorem State.emit_amp (b : OutByte) : (s.emit b).amp = s.amp := rfl
@[simp] theorem State.emit_dur (b : OutByte) : (s.emit b).dur = s.dur := rfl
@[simp] theorem State.emit_duty (b : OutByte) : (s.emit b).duty = s.duty := rfl
@[simp] theorem State.emit_seed (b : OutByte) : (s.emit b).seed = s.seed := rfl
@[simp] theorem State.emit_period (b : OutByte) : (s.emit b).period = s.period := rfl
@[simp] theorem State.emit_nsamp (b : OutByte) : (s.emit b).nsamp = s.nsamp := rfl
@[simp] theorem State.emit_cyc (b : OutByte) : (s.emit b).cyc = s.cyc := rfl
@[simp] theorem State.emit_prng (b : OutByte) : (s.emit b).prng = s.prng := rfl
@[simp] theorem State.emit_run (b : OutByte) : (s.emit b).run = s.run := rfl
@[simp] theorem State.emit_plat (b : OutByte) : (s.emit b).plat = s.plat := rfl
@[simp] theorem State.emit_gidx (b : OutByte) : (s.emit b).gidx = s.gidx := rfl
@[simp] theorem State.emit_sidx (b : OutByte) : (s.emit b).sidx = s.sidx := rfl
@[simp] theorem State.emit_bph (b : OutByte) : (s.emit b).bph = s.bph := rfl
@[simp] theorem State.emit_out (b : OutByte) : (s.emit b).out = s.out ++ [b] := rfl
@[simp] theorem State.emit_cfg (b : OutByte) : (s.emit b).cfg = s.cfg := rfl
@[simp] theorem State.emit_schedule (b : OutByte) : (s.emit b).schedule = s.schedule := rfl
@[simp] theorem State.emit_outReady (b : OutByte) : (s.emit b).outReady = s.outReady := rfl
@[simp] theorem State.emit_reply (b : OutByte) : (s.emit b).reply = s.reply := rfl

/-! ### `State.setPrng` -/

@[simp] theorem State.setPrng_done (x : Word) : (s.setPrng x).done = s.done := rfl
@[simp] theorem State.setPrng_err (x : Word) : (s.setPrng x).err = s.err := rfl
@[simp] theorem State.setPrng_ovr (x : Word) : (s.setPrng x).ovr = s.ovr := rfl
@[simp] theorem State.setPrng_errcode (x : Word) : (s.setPrng x).errcode = s.errcode := rfl
@[simp] theorem State.setPrng_errcmd (x : Word) : (s.setPrng x).errcmd = s.errcmd := rfl
@[simp] theorem State.setPrng_ctrl (x : Word) : (s.setPrng x).ctrl = s.ctrl := rfl
@[simp] theorem State.setPrng_freq (x : Word) : (s.setPrng x).freq = s.freq := rfl
@[simp] theorem State.setPrng_amp (x : Word) : (s.setPrng x).amp = s.amp := rfl
@[simp] theorem State.setPrng_dur (x : Word) : (s.setPrng x).dur = s.dur := rfl
@[simp] theorem State.setPrng_duty (x : Word) : (s.setPrng x).duty = s.duty := rfl
@[simp] theorem State.setPrng_seed (x : Word) : (s.setPrng x).seed = s.seed := rfl
@[simp] theorem State.setPrng_period (x : Word) : (s.setPrng x).period = s.period := rfl
@[simp] theorem State.setPrng_nsamp (x : Word) : (s.setPrng x).nsamp = s.nsamp := rfl
@[simp] theorem State.setPrng_cyc (x : Word) : (s.setPrng x).cyc = s.cyc := rfl
@[simp] theorem State.setPrng_prng (x : Word) : (s.setPrng x).prng = x := rfl
@[simp] theorem State.setPrng_run (x : Word) : (s.setPrng x).run = s.run := rfl
@[simp] theorem State.setPrng_plat (x : Word) : (s.setPrng x).plat = s.plat := rfl
@[simp] theorem State.setPrng_gidx (x : Word) : (s.setPrng x).gidx = s.gidx := rfl
@[simp] theorem State.setPrng_sidx (x : Word) : (s.setPrng x).sidx = s.sidx := rfl
@[simp] theorem State.setPrng_bph (x : Word) : (s.setPrng x).bph = s.bph := rfl
@[simp] theorem State.setPrng_out (x : Word) : (s.setPrng x).out = s.out := rfl
@[simp] theorem State.setPrng_cfg (x : Word) : (s.setPrng x).cfg = s.cfg := rfl
@[simp] theorem State.setPrng_schedule (x : Word) : (s.setPrng x).schedule = s.schedule := rfl
@[simp] theorem State.setPrng_outReady (x : Word) : (s.setPrng x).outReady = s.outReady := rfl
@[simp] theorem State.setPrng_reply (x : Word) : (s.setPrng x).reply = s.reply := rfl

/-! ### `State.answer` -/

@[simp] theorem State.answer_done (r : BusReply) : (s.answer r).done = s.done := rfl
@[simp] theorem State.answer_err (r : BusReply) : (s.answer r).err = s.err := rfl
@[simp] theorem State.answer_ovr (r : BusReply) : (s.answer r).ovr = s.ovr := rfl
@[simp] theorem State.answer_errcode (r : BusReply) : (s.answer r).errcode = s.errcode := rfl
@[simp] theorem State.answer_errcmd (r : BusReply) : (s.answer r).errcmd = s.errcmd := rfl
@[simp] theorem State.answer_ctrl (r : BusReply) : (s.answer r).ctrl = s.ctrl := rfl
@[simp] theorem State.answer_freq (r : BusReply) : (s.answer r).freq = s.freq := rfl
@[simp] theorem State.answer_amp (r : BusReply) : (s.answer r).amp = s.amp := rfl
@[simp] theorem State.answer_dur (r : BusReply) : (s.answer r).dur = s.dur := rfl
@[simp] theorem State.answer_duty (r : BusReply) : (s.answer r).duty = s.duty := rfl
@[simp] theorem State.answer_seed (r : BusReply) : (s.answer r).seed = s.seed := rfl
@[simp] theorem State.answer_period (r : BusReply) : (s.answer r).period = s.period := rfl
@[simp] theorem State.answer_nsamp (r : BusReply) : (s.answer r).nsamp = s.nsamp := rfl
@[simp] theorem State.answer_cyc (r : BusReply) : (s.answer r).cyc = s.cyc := rfl
@[simp] theorem State.answer_prng (r : BusReply) : (s.answer r).prng = s.prng := rfl
@[simp] theorem State.answer_run (r : BusReply) : (s.answer r).run = s.run := rfl
@[simp] theorem State.answer_plat (r : BusReply) : (s.answer r).plat = s.plat := rfl
@[simp] theorem State.answer_gidx (r : BusReply) : (s.answer r).gidx = s.gidx := rfl
@[simp] theorem State.answer_sidx (r : BusReply) : (s.answer r).sidx = s.sidx := rfl
@[simp] theorem State.answer_bph (r : BusReply) : (s.answer r).bph = s.bph := rfl
@[simp] theorem State.answer_out (r : BusReply) : (s.answer r).out = s.out := rfl
@[simp] theorem State.answer_cfg (r : BusReply) : (s.answer r).cfg = s.cfg := rfl
@[simp] theorem State.answer_schedule (r : BusReply) : (s.answer r).schedule = s.schedule := rfl
@[simp] theorem State.answer_outReady (r : BusReply) : (s.answer r).outReady = s.outReady := rfl
@[simp] theorem State.answer_reply (r : BusReply) : (s.answer r).reply = some r := rfl

/-! ### `State.raiseError` -/

@[simp] theorem State.raiseError_done (e : BlockError) (w : Word) : (s.raiseError e w).done = s.done := rfl
@[simp] theorem State.raiseError_err (e : BlockError) (w : Word) : (s.raiseError e w).err = true := rfl
@[simp] theorem State.raiseError_ovr (e : BlockError) (w : Word) : (s.raiseError e w).ovr = s.ovr := rfl
@[simp] theorem State.raiseError_errcode (e : BlockError) (w : Word) :
    (s.raiseError e w).errcode = errorCode e := rfl
@[simp] theorem State.raiseError_errcmd (e : BlockError) (w : Word) : (s.raiseError e w).errcmd = w := rfl
@[simp] theorem State.raiseError_ctrl (e : BlockError) (w : Word) : (s.raiseError e w).ctrl = s.ctrl := rfl
@[simp] theorem State.raiseError_freq (e : BlockError) (w : Word) : (s.raiseError e w).freq = s.freq := rfl
@[simp] theorem State.raiseError_amp (e : BlockError) (w : Word) : (s.raiseError e w).amp = s.amp := rfl
@[simp] theorem State.raiseError_dur (e : BlockError) (w : Word) : (s.raiseError e w).dur = s.dur := rfl
@[simp] theorem State.raiseError_duty (e : BlockError) (w : Word) : (s.raiseError e w).duty = s.duty := rfl
@[simp] theorem State.raiseError_seed (e : BlockError) (w : Word) : (s.raiseError e w).seed = s.seed := rfl
@[simp] theorem State.raiseError_period (e : BlockError) (w : Word) :
    (s.raiseError e w).period = if isGenWord w then 0 else s.period := rfl
@[simp] theorem State.raiseError_nsamp (e : BlockError) (w : Word) : (s.raiseError e w).nsamp = s.nsamp := rfl
@[simp] theorem State.raiseError_cyc (e : BlockError) (w : Word) : (s.raiseError e w).cyc = s.cyc := rfl
@[simp] theorem State.raiseError_prng (e : BlockError) (w : Word) : (s.raiseError e w).prng = s.prng := rfl
@[simp] theorem State.raiseError_run (e : BlockError) (w : Word) : (s.raiseError e w).run = s.run := rfl
@[simp] theorem State.raiseError_plat (e : BlockError) (w : Word) : (s.raiseError e w).plat = s.plat := rfl
@[simp] theorem State.raiseError_gidx (e : BlockError) (w : Word) : (s.raiseError e w).gidx = s.gidx := rfl
@[simp] theorem State.raiseError_sidx (e : BlockError) (w : Word) : (s.raiseError e w).sidx = s.sidx := rfl
@[simp] theorem State.raiseError_bph (e : BlockError) (w : Word) : (s.raiseError e w).bph = s.bph := rfl
@[simp] theorem State.raiseError_out (e : BlockError) (w : Word) : (s.raiseError e w).out = s.out := rfl
@[simp] theorem State.raiseError_cfg (e : BlockError) (w : Word) : (s.raiseError e w).cfg = s.cfg := rfl
@[simp] theorem State.raiseError_schedule (e : BlockError) (w : Word) :
    (s.raiseError e w).schedule = s.schedule := rfl
@[simp] theorem State.raiseError_outReady (e : BlockError) (w : Word) :
    (s.raiseError e w).outReady = s.outReady := rfl
@[simp] theorem State.raiseError_reply (e : BlockError) (w : Word) : (s.raiseError e w).reply = s.reply := rfl

/-! ### `State.returnFromError` -/

@[simp] theorem State.returnFromError_done : (s.returnFromError).done = true := rfl
@[simp] theorem State.returnFromError_err : (s.returnFromError).err = false := rfl
@[simp] theorem State.returnFromError_ovr : (s.returnFromError).ovr = false := rfl
@[simp] theorem State.returnFromError_errcode : (s.returnFromError).errcode = 0 := rfl
@[simp] theorem State.returnFromError_errcmd : (s.returnFromError).errcmd = 0 := rfl
@[simp] theorem State.returnFromError_ctrl : (s.returnFromError).ctrl = s.ctrl := rfl
@[simp] theorem State.returnFromError_freq : (s.returnFromError).freq = s.freq := rfl
@[simp] theorem State.returnFromError_amp : (s.returnFromError).amp = s.amp := rfl
@[simp] theorem State.returnFromError_dur : (s.returnFromError).dur = s.dur := rfl
@[simp] theorem State.returnFromError_duty : (s.returnFromError).duty = s.duty := rfl
@[simp] theorem State.returnFromError_seed : (s.returnFromError).seed = s.seed := rfl
@[simp] theorem State.returnFromError_period : (s.returnFromError).period = s.period := rfl
@[simp] theorem State.returnFromError_nsamp : (s.returnFromError).nsamp = s.nsamp := rfl
@[simp] theorem State.returnFromError_cyc : (s.returnFromError).cyc = s.cyc := rfl
@[simp] theorem State.returnFromError_prng : (s.returnFromError).prng = s.prng := rfl
@[simp] theorem State.returnFromError_run : (s.returnFromError).run = s.run := rfl
@[simp] theorem State.returnFromError_plat : (s.returnFromError).plat = s.plat := rfl
@[simp] theorem State.returnFromError_gidx : (s.returnFromError).gidx = s.gidx := rfl
@[simp] theorem State.returnFromError_sidx : (s.returnFromError).sidx = s.sidx := rfl
@[simp] theorem State.returnFromError_bph : (s.returnFromError).bph = s.bph := rfl
@[simp] theorem State.returnFromError_out : (s.returnFromError).out = s.out := rfl
@[simp] theorem State.returnFromError_cfg : (s.returnFromError).cfg = s.cfg := rfl
@[simp] theorem State.returnFromError_schedule : (s.returnFromError).schedule = s.schedule := rfl
@[simp] theorem State.returnFromError_outReady : (s.returnFromError).outReady = s.outReady := rfl
@[simp] theorem State.returnFromError_reply : (s.returnFromError).reply = s.reply := rfl

/-! ### `State.storeSample` -/

@[simp] theorem State.storeSample_done (k : Kind) : (s.storeSample k).done = s.done := rfl
@[simp] theorem State.storeSample_err (k : Kind) : (s.storeSample k).err = s.err := rfl
@[simp] theorem State.storeSample_ovr (k : Kind) : (s.storeSample k).ovr = s.ovr := rfl
@[simp] theorem State.storeSample_errcode (k : Kind) : (s.storeSample k).errcode = s.errcode := rfl
@[simp] theorem State.storeSample_errcmd (k : Kind) : (s.storeSample k).errcmd = s.errcmd := rfl
@[simp] theorem State.storeSample_ctrl (k : Kind) : (s.storeSample k).ctrl = s.ctrl := rfl
@[simp] theorem State.storeSample_freq (k : Kind) : (s.storeSample k).freq = s.freq := rfl
@[simp] theorem State.storeSample_amp (k : Kind) : (s.storeSample k).amp = s.amp := rfl
@[simp] theorem State.storeSample_dur (k : Kind) : (s.storeSample k).dur = s.dur := rfl
@[simp] theorem State.storeSample_duty (k : Kind) : (s.storeSample k).duty = s.duty := rfl
@[simp] theorem State.storeSample_seed (k : Kind) : (s.storeSample k).seed = s.seed := rfl
@[simp] theorem State.storeSample_period (k : Kind) : (s.storeSample k).period = s.period := rfl
@[simp] theorem State.storeSample_nsamp (k : Kind) : (s.storeSample k).nsamp = s.nsamp := rfl
@[simp] theorem State.storeSample_cyc (k : Kind) :
    (s.storeSample k).cyc = writeEntry s.cyc s.gidx.toNat (quantPattern (s.sample k s.gidx.toNat)) := rfl
@[simp] theorem State.storeSample_prng (k : Kind) : (s.storeSample k).prng = s.prngAfter k := rfl
@[simp] theorem State.storeSample_run (k : Kind) : (s.storeSample k).run = s.run := rfl
@[simp] theorem State.storeSample_plat (k : Kind) : (s.storeSample k).plat = s.plat := rfl
@[simp] theorem State.storeSample_gidx (k : Kind) : (s.storeSample k).gidx = s.gidx + 1 := rfl
@[simp] theorem State.storeSample_sidx (k : Kind) : (s.storeSample k).sidx = s.sidx := rfl
@[simp] theorem State.storeSample_bph (k : Kind) : (s.storeSample k).bph = s.bph := rfl
@[simp] theorem State.storeSample_out (k : Kind) : (s.storeSample k).out = s.out := rfl
@[simp] theorem State.storeSample_cfg (k : Kind) : (s.storeSample k).cfg = s.cfg := rfl
@[simp] theorem State.storeSample_schedule (k : Kind) : (s.storeSample k).schedule = s.schedule := rfl
@[simp] theorem State.storeSample_outReady (k : Kind) : (s.storeSample k).outReady = s.outReady := rfl
@[simp] theorem State.storeSample_reply (k : Kind) : (s.storeSample k).reply = s.reply := rfl

/-! ### `State.resetBlock` -/

@[simp] theorem State.resetBlock_done (d : Fin 4294967295) : (s.resetBlock d).done = false := rfl
@[simp] theorem State.resetBlock_err (d : Fin 4294967295) : (s.resetBlock d).err = false := rfl
@[simp] theorem State.resetBlock_ovr (d : Fin 4294967295) : (s.resetBlock d).ovr = false := rfl
@[simp] theorem State.resetBlock_errcode (d : Fin 4294967295) : (s.resetBlock d).errcode = 0 := rfl
@[simp] theorem State.resetBlock_errcmd (d : Fin 4294967295) : (s.resetBlock d).errcmd = 0 := rfl
@[simp] theorem State.resetBlock_ctrl (d : Fin 4294967295) : (s.resetBlock d).ctrl = 0 := rfl
@[simp] theorem State.resetBlock_freq (d : Fin 4294967295) : (s.resetBlock d).freq = 0 := rfl
@[simp] theorem State.resetBlock_amp (d : Fin 4294967295) : (s.resetBlock d).amp = 0 := rfl
@[simp] theorem State.resetBlock_dur (d : Fin 4294967295) : (s.resetBlock d).dur = 0 := rfl
@[simp] theorem State.resetBlock_duty (d : Fin 4294967295) : (s.resetBlock d).duty = 50 := rfl
@[simp] theorem State.resetBlock_seed (d : Fin 4294967295) : (s.resetBlock d).seed = 0 := rfl
@[simp] theorem State.resetBlock_period (d : Fin 4294967295) : (s.resetBlock d).period = 0 := rfl
@[simp] theorem State.resetBlock_nsamp (d : Fin 4294967295) : (s.resetBlock d).nsamp = 0 := rfl
@[simp] theorem State.resetBlock_cyc (d : Fin 4294967295) : (s.resetBlock d).cyc = [] := rfl
@[simp] theorem State.resetBlock_prng (d : Fin 4294967295) : (s.resetBlock d).prng = prngOfDraw d := rfl
@[simp] theorem State.resetBlock_run (d : Fin 4294967295) : (s.resetBlock d).run = .idle := rfl
@[simp] theorem State.resetBlock_plat (d : Fin 4294967295) : (s.resetBlock d).plat = 0 := rfl
@[simp] theorem State.resetBlock_gidx (d : Fin 4294967295) : (s.resetBlock d).gidx = 0 := rfl
@[simp] theorem State.resetBlock_sidx (d : Fin 4294967295) : (s.resetBlock d).sidx = 0 := rfl
@[simp] theorem State.resetBlock_bph (d : Fin 4294967295) : (s.resetBlock d).bph = .low := rfl
@[simp] theorem State.resetBlock_out (d : Fin 4294967295) : (s.resetBlock d).out = s.out := rfl
@[simp] theorem State.resetBlock_cfg (d : Fin 4294967295) : (s.resetBlock d).cfg = s.cfg := rfl
@[simp] theorem State.resetBlock_schedule (d : Fin 4294967295) : (s.resetBlock d).schedule = s.schedule := rfl
@[simp] theorem State.resetBlock_outReady (d : Fin 4294967295) : (s.resetBlock d).outReady = s.outReady := rfl
@[simp] theorem State.resetBlock_reply (d : Fin 4294967295) : (s.resetBlock d).reply = none := rfl

/-! ### `State.handOver`: the byte phase decides -/

@[simp] theorem State.handOver_done : s.handOver.done = s.done := by
  unfold State.handOver; split <;> rfl
@[simp] theorem State.handOver_err : s.handOver.err = s.err := by
  unfold State.handOver; split <;> rfl
@[simp] theorem State.handOver_ovr : s.handOver.ovr = s.ovr := by
  unfold State.handOver; split <;> rfl
@[simp] theorem State.handOver_errcode : s.handOver.errcode = s.errcode := by
  unfold State.handOver; split <;> rfl
@[simp] theorem State.handOver_errcmd : s.handOver.errcmd = s.errcmd := by
  unfold State.handOver; split <;> rfl
@[simp] theorem State.handOver_ctrl : s.handOver.ctrl = s.ctrl := by
  unfold State.handOver; split <;> rfl
@[simp] theorem State.handOver_freq : s.handOver.freq = s.freq := by
  unfold State.handOver; split <;> rfl
@[simp] theorem State.handOver_amp : s.handOver.amp = s.amp := by
  unfold State.handOver; split <;> rfl
@[simp] theorem State.handOver_dur : s.handOver.dur = s.dur := by
  unfold State.handOver; split <;> rfl
@[simp] theorem State.handOver_duty : s.handOver.duty = s.duty := by
  unfold State.handOver; split <;> rfl
@[simp] theorem State.handOver_seed : s.handOver.seed = s.seed := by
  unfold State.handOver; split <;> rfl
@[simp] theorem State.handOver_period : s.handOver.period = s.period := by
  unfold State.handOver; split <;> rfl
@[simp] theorem State.handOver_nsamp : s.handOver.nsamp = s.nsamp := by
  unfold State.handOver; split <;> rfl
@[simp] theorem State.handOver_cyc : s.handOver.cyc = s.cyc := by
  unfold State.handOver; split <;> rfl
@[simp] theorem State.handOver_prng : s.handOver.prng = s.prng := by
  unfold State.handOver; split <;> rfl
@[simp] theorem State.handOver_run : s.handOver.run = s.run := by
  unfold State.handOver; split <;> rfl
@[simp] theorem State.handOver_plat : s.handOver.plat = s.plat := by
  unfold State.handOver; split <;> rfl
@[simp] theorem State.handOver_gidx : s.handOver.gidx = s.gidx := by
  unfold State.handOver; split <;> rfl
@[simp] theorem State.handOver_cfg : s.handOver.cfg = s.cfg := by
  unfold State.handOver; split <;> rfl
@[simp] theorem State.handOver_schedule : s.handOver.schedule = s.schedule := by
  unfold State.handOver; split <;> rfl
@[simp] theorem State.handOver_outReady : s.handOver.outReady = s.outReady := by
  unfold State.handOver; split <;> rfl
@[simp] theorem State.handOver_reply : s.handOver.reply = s.reply := by
  unfold State.handOver; split <;> rfl
@[simp] theorem State.handOver_out : s.handOver.out = s.out ++ [s.offeredByte] := by
  unfold State.handOver; split <;> rfl

/-! ### `BUSY` depends on `run` alone -/

theorem State.busy_eq_of_run {s t : State} (h : s.run = t.run) : s.busy = t.busy := by
  simp only [State.busy, h]

theorem State.busy_false_iff {s : State} : s.busy = false ↔ s.run = .idle := by
  unfold State.busy; split <;> simp_all

theorem State.busy_true_iff {s : State} : s.busy = true ↔ s.run ≠ .idle := by
  unfold State.busy; split <;> simp_all

end Sys2Proof.Machine
end

