-- ==== Sys2Proof/Laws/Ops.lean ====
section
/-! SUPPORT. What the shared operations can do, said once: acceptance (R65, R100), the issue of a
generation (R101) and of a stream (R155), and every command. -/

namespace Sys2Proof.Machine

variable {s t : State}

theorem acceptCommand_busy (h : s.busy = true) (w : Word) (act : State → State) :
    acceptCommand w act s = s.dropWrite := by
  simp [acceptCommand, h]

theorem acceptCommand_blocked (hb : s.busy = false) (he : s.err = true) {w : Word} (hw : w ≠ 0x00000040)
    (act : State → State) : acceptCommand w act s = s.dropWrite := by
  have h : (w != 0x00000040) = true := by simpa using hw
  simp only [acceptCommand, hb, he, h, Bool.and_self, if_true, if_false, Bool.false_eq_true]

theorem acceptCommand_ready (hb : s.busy = false) {w : Word} (he : s.err = false ∨ w = 0x00000040)
    (act : State → State) : acceptCommand w act s = act s.accept := by
  rcases he with he | rfl
  · simp [acceptCommand, hb, he]
  · simp [acceptCommand, hb]

/-- A command word is dropped or accepted, and when it is accepted nothing runs and, but for `CLRERR`,
nothing is recorded. -/
theorem acceptCommand_cases (w : Word) (act : State → State) (s : State) :
    ((s.busy = true ∨ s.err = true ∧ w ≠ 0x00000040) ∧ acceptCommand w act s = s.dropWrite) ∨
    (s.busy = false ∧ (s.err = false ∨ w = 0x00000040) ∧ acceptCommand w act s = act s.accept) := by
  unfold acceptCommand
  split_ifs with h1 h2
  · exact .inl ⟨.inl h1, rfl⟩
  · exact .inl ⟨.inr (by simpa using h2), rfl⟩
  · refine .inr ⟨by simpa using h1, ?_, rfl⟩
    by_cases h : w = 0x00000040
    · exact .inr h
    · have hw : (w != 0x00000040) = true := by simpa using h
      rw [hw, Bool.and_true] at h2
      exact .inl (by simpa using h2)

/-- What an accepted command does, on the state in which it has just been accepted. -/
def commandEffect : Instr → State → State
  | .nop => State.markDone
  | .genSine => genIssue .sine 0x00000010
  | .genTri => genIssue .tri 0x00000011
  | .genSaw => genIssue .saw 0x00000012
  | .genPulse => genIssue .pulse 0x00000013
  | .genNoise => genIssue .noise 0x00000014
  | .pack => packIssue 0x00000020
  | .seed => seedEffect
  | .clrerr => State.returnFromError

/-- Every command answers a next state: its word goes through acceptance, then it acts. -/
theorem exec_eq (i : Instr) (s : State) :
    exec i s = .next (acceptCommand (encode i) (commandEffect i) s) := by
  cases i <;> rfl

theorem encode_eq_clrerr {i : Instr} : encode i = 0x00000040 ↔ i = .clrerr := by
  cases i <;> decide

theorem exec_busy (h : s.busy = true) (i : Instr) : exec i s = .next s.dropWrite := by
  rw [exec_eq, acceptCommand_busy h]

theorem exec_blocked (hb : s.busy = false) (he : s.err = true) {i : Instr} (hi : i ≠ .clrerr) :
    exec i s = .next s.dropWrite := by
  rw [exec_eq, acceptCommand_blocked hb he (fun h => hi (encode_eq_clrerr.1 h))]

theorem exec_accepted (hb : s.busy = false) {i : Instr} (he : s.err = false ∨ i = .clrerr) :
    exec i s = .next (commandEffect i s.accept) := by
  rw [exec_eq, acceptCommand_ready hb (he.imp_right encode_eq_clrerr.2)]

/-- What a command can do: drop its write, while busy or faulted, or act on the accepted state. -/
theorem exec_cases {i : Instr} (h : exec i s = .next t) :
    ((s.busy = true ∨ s.err = true ∧ i ≠ .clrerr) ∧ t = s.dropWrite) ∨
    (s.busy = false ∧ (s.err = false ∨ i = .clrerr) ∧ t = commandEffect i s.accept) := by
  rw [exec_eq] at h
  cases h
  exact (acceptCommand_cases _ _ _).imp
    (fun ⟨a, b⟩ => ⟨a.imp_right (And.imp_right (mt encode_eq_clrerr.2)), b⟩)
    fun ⟨a, b, c⟩ => ⟨a, b.imp_right encode_eq_clrerr.1, c⟩

theorem commandEffect_gen (k : Kind) : commandEffect k.command = genIssue k (encode k.command) := by
  cases k <;> rfl

theorem isGenWord_encode (i : Instr) : isGenWord (encode i) = true ↔ ∃ k : Kind, i = k.command := by
  cases i
  case genSine => exact ⟨fun _ => ⟨.sine, rfl⟩, fun _ => rfl⟩
  case genTri => exact ⟨fun _ => ⟨.tri, rfl⟩, fun _ => rfl⟩
  case genSaw => exact ⟨fun _ => ⟨.saw, rfl⟩, fun _ => rfl⟩
  case genPulse => exact ⟨fun _ => ⟨.pulse, rfl⟩, fun _ => rfl⟩
  case genNoise => exact ⟨fun _ => ⟨.noise, rfl⟩, fun _ => rfl⟩
  all_goals
    refine ⟨fun h => absurd h (by decide), fun ⟨k, h⟩ => ?_⟩
    cases k <;> cases h

theorem isGenWord_command (k : Kind) : isGenWord (encode k.command) = true :=
  (isGenWord_encode _).2 ⟨k, rfl⟩

theorem freqLegal_iff {f : Nat} : freqLegal f = true ↔ 1 ≤ f ∧ f < 2890137600 := by
  simp only [freqLegal, Bool.and_eq_true, decide_eq_true_eq,
    show sampleRate * one16 = 2890137600 from rfl]
  omega

theorem dutyLegal_iff {d : Nat} : dutyLegal d = true ↔ 1 ≤ d ∧ d ≤ 100 := by
  simp [dutyLegal]

theorem periodOf_bounds {f : Nat} (h : freqLegal f = true) :
    1 ≤ periodOf f ∧ periodOf f ≤ 2890137600 := by
  obtain ⟨h1, h2⟩ := freqLegal_iff.1 h
  simp only [periodOf, sampleRate, one16]
  exact ⟨(Nat.one_le_div_iff (by omega)).2 (by omega), Nat.div_le_self _ _⟩

theorem sampleCountOf_le (d : Word) : sampleCountOf d.toNat ≤ 2890137599 := by
  have := d.isLt
  simp only [sampleCountOf, sampleRate, one16]
  omega

/-- The issue of a generation raises one of three errors or starts (R101). -/
theorem genIssue_cases (k : Kind) (w : Word) (s : State) :
    (∃ e, genIssue k w s = s.raiseError e w) ∨
    (freqLegal s.freqPattern = true ∧ periodOf s.freqPattern ≤ s.cfg.cycleDepth ∧
      (k = .pulse → dutyLegal s.dutyPercent = true) ∧
      genIssue k w s = s.startGen k (BitVec.ofNat 32 (periodOf s.freqPattern))) := by
  unfold genIssue
  split_ifs with h1 h2 h3
  · exact .inl ⟨_, rfl⟩
  · exact .inl ⟨_, rfl⟩
  · exact .inl ⟨_, rfl⟩
  · refine .inr ⟨by simpa using h1, by omega, fun hk => ?_, rfl⟩
    simpa [hk] using h3

/-- A generation whose operands pass the three checks starts. -/
theorem genIssue_starts {k : Kind} (hf : freqLegal s.freqPattern = true)
    (hp : periodOf s.freqPattern ≤ s.cfg.cycleDepth)
    (hd : k = .pulse → dutyLegal s.dutyPercent = true) (w : Word) :
    genIssue k w s = s.startGen k (BitVec.ofNat 32 (periodOf s.freqPattern)) := by
  unfold genIssue
  rw [if_neg (by simp [hf]), if_neg (by omega), if_neg]
  rintro ⟨hk, h⟩
  simp [hd hk] at h

/-- The issue of a stream raises `EmptyCycle`, completes at once or starts (R155). -/
theorem packIssue_cases (w : Word) (s : State) :
    (s.period = 0 ∧ packIssue w s = s.raiseError .emptyCycle w) ∨
    (s.period ≠ 0 ∧ sampleCountOf s.durPattern = 0 ∧ packIssue w s = (s.setCount 0).markDone) ∨
    (s.period ≠ 0 ∧ sampleCountOf s.durPattern ≠ 0 ∧
      packIssue w s = (s.setCount (BitVec.ofNat 32 (sampleCountOf s.durPattern))).startPack) := by
  unfold packIssue
  split_ifs with h1 h2
  · exact .inl ⟨h1, rfl⟩
  · exact .inr (.inl ⟨h1, h2, rfl⟩)
  · exact .inr (.inr ⟨h1, h2, rfl⟩)

/-- What an accepted command leaves alone (R45). -/
theorem commandEffect_frame (i : Instr) (s : State) :
    let t := commandEffect i s
    (t.freq = s.freq ∧ t.amp = s.amp ∧ t.dur = s.dur ∧ t.duty = s.duty ∧ t.seed = s.seed ∧
      t.ctrl = s.ctrl) ∧ t.cyc = s.cyc ∧ t.out = s.out ∧
    (t.cfg = s.cfg ∧ t.schedule = s.schedule ∧ t.outReady = s.outReady ∧ t.reply = s.reply) ∧
    (i ≠ .seed → t.prng = s.prng) ∧
    (i ≠ .pack → t.nsamp = s.nsamp ∧ t.sidx = s.sidx ∧ t.bph = s.bph) ∧
    ((∀ k : Kind, i ≠ k.command) → t.period = s.period ∧ t.plat = s.plat ∧ t.gidx = s.gidx) ∧
    ((∀ k : Kind, i ≠ k.command) → i ≠ .pack → t.run = s.run) ∧
    (i = .nop ∨ i = .seed → t.err = s.err ∧ t.errcode = s.errcode ∧ t.errcmd = s.errcmd) ∧
    (i ≠ .clrerr → t.ovr = s.ovr) := by
  by_cases hg : ∃ k : Kind, i = k.command
  · obtain ⟨k, rfl⟩ := hg
    have h1 : ∀ {P : Prop}, (∀ j : Kind, k.command ≠ j.command) → P := fun h => absurd rfl (h k)
    have h2 : ¬ (k.command = .nop ∨ k.command = .seed) := by cases k <;> decide
    simp only [commandEffect_gen]
    rcases genIssue_cases k (encode k.command) s with ⟨e, h⟩ | ⟨_, _, _, h⟩ <;> rw [h] <;>
      refine ⟨by simp, by simp, by simp, by simp, by simp, by simp, h1, h1,
        fun h => absurd h h2, by simp⟩
  · have hg' : ∀ k : Kind, i ≠ k.command := fun k h => hg ⟨k, h⟩
    cases i
    case nop => simp [commandEffect]
    case seed => simp [commandEffect, seedEffect]
    case clrerr => simp [commandEffect]
    case pack =>
      have hw : isGenWord 32#32 = false := rfl
      simp only [commandEffect]
      rcases packIssue_cases 0x20 s with ⟨_, h⟩ | ⟨_, _, h⟩ | ⟨_, _, h⟩ <;> rw [h] <;> simp [hw]
    case genSine => exact absurd rfl (hg' .sine)
    case genTri => exact absurd rfl (hg' .tri)
    case genSaw => exact absurd rfl (hg' .saw)
    case genPulse => exact absurd rfl (hg' .pulse)
    case genNoise => exact absurd rfl (hg' .noise)

end Sys2Proof.Machine
end

