-- ==== Sys2Proof/Laws/PerInstr.lean ====
section
/-! SUPPORT. Statements made once per constructor of `Instr`. -/

namespace Sys2Proof.Laws

/-- The instruction is well formed, its word has its fields, and decoding its word gives it back. -/
def RoundTrip.Statement (i : Instr) : Prop :=
  i.wellFormed = true ∧ fieldsOf (encode i) = i.cmdw ∧ decode (encode i) = .ok i

theorem RoundTrip.nop : RoundTrip.Statement .nop := ⟨rfl, rfl, rfl⟩
theorem RoundTrip.genSine : RoundTrip.Statement .genSine := ⟨rfl, rfl, rfl⟩
theorem RoundTrip.genTri : RoundTrip.Statement .genTri := ⟨rfl, rfl, rfl⟩
theorem RoundTrip.genSaw : RoundTrip.Statement .genSaw := ⟨rfl, rfl, rfl⟩
theorem RoundTrip.genPulse : RoundTrip.Statement .genPulse := ⟨rfl, rfl, rfl⟩
theorem RoundTrip.genNoise : RoundTrip.Statement .genNoise := ⟨rfl, rfl, rfl⟩
theorem RoundTrip.pack : RoundTrip.Statement .pack := ⟨rfl, rfl, rfl⟩
theorem RoundTrip.seed : RoundTrip.Statement .seed := ⟨rfl, rfl, rfl⟩
theorem RoundTrip.clrerr : RoundTrip.Statement .clrerr := ⟨rfl, rfl, rfl⟩

end Sys2Proof.Laws
end

