-- ==== Sys2Proof/Laws/Quantizer.lean ====
section
/-! SUPPORT. The laws of rounding and wrapping (R8, R150). -/

namespace Sys2Proof.Machine

/-- The two integers `rhe` chooses between, with the fraction that decides. -/
theorem rhe_cases (q : Rat) :
    (rhe q = q.floor ∧ q - q.floor ≤ 1 / 2 ∧ (q - q.floor = 1 / 2 → q.floor % 2 = 0)) ∨
    (rhe q = q.floor + 1 ∧ 1 / 2 ≤ q - q.floor ∧ (q - q.floor = 1 / 2 → (q.floor + 1) % 2 = 0)) := by
  unfold rhe
  split_ifs with h1 h2 h3
  · exact .inl ⟨rfl, h1.le, fun h => absurd h h1.ne⟩
  · exact .inr ⟨rfl, h2.le, fun h => absurd h.symm h2.ne⟩
  · exact .inl ⟨rfl, not_lt.1 h2, fun _ => h3⟩
  · exact .inr ⟨rfl, not_lt.1 h1, fun _ => by omega⟩

theorem floor_le_self (q : Rat) : (q.floor : Rat) ≤ q := Rat.floor_le q

theorem lt_floor_succ (q : Rat) : q < (q.floor : Rat) + 1 := by
  simpa using Rat.lt_floor_add_one q

/-- `rhe` is within one half. -/
theorem rhe_near (q : Rat) : |(rhe q : Rat) - q| ≤ 1 / 2 := by
  have h1 := floor_le_self q
  have h2 := lt_floor_succ q
  rcases rhe_cases q with ⟨h, h3, -⟩ | ⟨h, h3, -⟩ <;> rw [h, abs_le] <;> push_cast <;> constructor <;>
    linarith

/-- A tie goes to the even integer. -/
theorem rhe_tie {q : Rat} (h : |(rhe q : Rat) - q| = 1 / 2) : rhe q % 2 = 0 := by
  have h1 := floor_le_self q
  have h2 := lt_floor_succ q
  rcases rhe_cases q with ⟨e, h3, h4⟩ | ⟨e, h3, h4⟩ <;> rw [e] at h ⊢
  · rw [abs_of_nonpos (by linarith)] at h
    exact h4 (by linarith)
  · push_cast at h
    rw [abs_of_nonneg (by linarith)] at h
    exact h4 (by linarith)

/-- Nearness and the tie rule determine `rhe`. -/
theorem rhe_unique {q : Rat} {z : Int} (h : |(z : Rat) - q| ≤ 1 / 2)
    (tie : |(z : Rat) - q| = 1 / 2 → z % 2 = 0) : rhe q = z := by
  have hn := rhe_near q
  by_contra hne
  rw [abs_le] at h hn
  rcases lt_or_gt_of_ne hne with hlt | hlt
  · have h1 : (rhe q : Rat) + 1 ≤ z := by exact_mod_cast hlt
    have e1 : |(z : Rat) - q| = 1 / 2 := by
      rw [abs_of_nonneg (by linarith)]; linarith
    have e2 : |(rhe q : Rat) - q| = 1 / 2 := by
      rw [abs_of_nonpos (by linarith)]; linarith
    have h3 : z = rhe q + 1 := by
      have : (z : Rat) = rhe q + 1 := by linarith
      exact_mod_cast this
    have := tie e1
    have := rhe_tie e2
    omega
  · have h1 : (z : Rat) + 1 ≤ rhe q := by exact_mod_cast hlt
    have e1 : |(z : Rat) - q| = 1 / 2 := by
      rw [abs_of_nonpos (by linarith)]; linarith
    have e2 : |(rhe q : Rat) - q| = 1 / 2 := by
      rw [abs_of_nonneg (by linarith)]; linarith
    have h3 : rhe q = z + 1 := by
      have : (rhe q : Rat) = z + 1 := by linarith
      exact_mod_cast this
    have := tie e1
    have := rhe_tie e2
    omega

theorem rhe_intCast (z : Int) : rhe (z : Rat) = z :=
  rhe_unique (by simp) (by simp)

/-- Rounding is symmetric. -/
theorem rhe_neg (q : Rat) : rhe (-q) = -rhe q := by
  have hn := rhe_near q
  have e : |((-rhe q : Int) : Rat) - -q| = |(rhe q : Rat) - q| := by
    rw [← abs_neg]; push_cast; congr 1; ring
  refine rhe_unique (e ▸ hn) fun h => ?_
  have := rhe_tie (e ▸ h)
  omega

theorem rhe_mono {q r : Rat} (h : q ≤ r) : rhe q ≤ rhe r := by
  have hq := abs_le.1 (rhe_near q)
  have hr := abs_le.1 (rhe_near r)
  by_contra hlt
  have h1 : (rhe r : Rat) + 1 ≤ rhe q := by exact_mod_cast not_le.1 hlt
  have e : q = r := by linarith
  rw [e] at hlt
  exact hlt le_rfl

theorem rhe_le_of_le {q : Rat} {z : Int} (h : q ≤ z) : rhe q ≤ z := by
  simpa [rhe_intCast] using rhe_mono h

theorem le_rhe_of_le {q : Rat} {z : Int} (h : (z : Rat) ≤ q) : z ≤ rhe q := by
  simpa [rhe_intCast] using rhe_mono h

theorem wrap16_range (z : Int) : -32768 ≤ wrap16 z ∧ wrap16 z ≤ 32767 := by
  unfold wrap16; omega

theorem wrap16_congr (z : Int) : (wrap16 z - z) % 65536 = 0 := by
  unfold wrap16; omega

theorem wrap16_of_range {z : Int} (h1 : -32768 ≤ z) (h2 : z ≤ 32767) : wrap16 z = z := by
  unfold wrap16; omega

/-- The stored pattern, read as two's complement, is the quantised sample. -/
theorem quantPattern_toInt (s : Rat) : (quantPattern s).toInt = quant16 s := by
  obtain ⟨h1, h2⟩ := wrap16_range (rhe (s * 32767))
  unfold quantPattern quant16
  rw [BitVec.toInt_ofInt]
  exact Int.bmod_eq_of_le (by omega) (by omega)

end Sys2Proof.Machine
end

