-- ==== Sys2Proof/Laws/Step.lean ====
section
/-! SUPPORT. What a step can do, said once (`Moved`), and the small facts about the bus and the sequencer
it rests on. -/

namespace Sys2Proof.Machine

variable {s t : State}

theorem regAt_regAddr {d : Nat} {r : Reg} (h : ∀ i, r = .cycwin i → i < d) :
    regAt d (regAddr r) = some r := by
  cases r
  case cycwin i =>
    have hi := h i rfl
    have hn : namedRegs.find? (fun r => regAddr r == regAddr (.cycwin i)) = none := by
      simp only [namedRegs, List.find?_eq_none, List.forall_mem_cons, beq_iff_eq, regAddr]
      refine ⟨?_, ?_, ?_, ?_, ?_, ?_, ?_, ?_, ?_, ?_, ?_, ?_, ?_, by simp⟩ <;> omega
    have hc : 0x1000 ≤ regAddr (.cycwin i) ∧ regAddr (.cycwin i) < 0x1000 + 4 * d ∧
        regAddr (.cycwin i) % 4 = 0 := by
      simp only [regAddr]; omega
    have hv : (regAddr (.cycwin i) - 0x1000) / 4 = i := by simp only [regAddr]; omega
    simp only [regAt, hn, if_pos hc, hv]
  all_goals rfl

/-- The map takes an offset back to the one register that has it (R61). -/
theorem regAddr_of_regAt {d a : Nat} {r : Reg} (h : regAt d a = some r) :
    regAddr r = a ∧ ∀ i, r = .cycwin i → i < d := by
  unfold regAt at h
  split at h
  · next q hq =>
    cases h
    refine ⟨by simpa using List.find?_some hq, fun i hi => ?_⟩
    have hm := List.mem_of_find?_eq_some hq
    rw [hi] at hm
    simp [namedRegs] at hm
  · split_ifs at h with hc
    cases h
    refine ⟨by simp only [regAddr]; omega, fun i hi => ?_⟩
    cases hi
    omega

theorem accessed_eq_some {d a : Nat} {z : AccessSize} {r : Reg} :
    accessed d a z = some r ↔ z = .word ∧ regAt d a = some r := by
  cases z <;> simp [accessed]

/-- One step is one move: the next event on the state it is taken from. -/
theorem step_eq (s : State) : step s = takeEvent s.nextEvent s.popped := by
  unfold step State.nextEvent State.popped
  cases h : s.schedule with
  | nil =>
    show sequencerTurn s = sequencerTurn { s with schedule := [].tail }
    rw [List.tail_nil, ← h]
  | cons e rest => rfl

/-- Everything one move can do to a state. -/
inductive Moved (s : State) : Event → State → Prop
  /-- A read, or an illegal access: the answer and nothing else. -/
  | answered (e : Event) (r : BusReply) : Moved s e (s.answer r)
  /-- A legal write dropped, while busy or, for `CMD`, while an error is recorded. -/
  | dropped (r : Reg) (v : Word) (ha : accessed s.cfg.cycleDepth (regAddr r) .word = some r)
      (hd : s.busy = true ∨ s.err = true ∧ r = .cmd ∧ v ≠ 0x00000040) :
      Moved s (.hostWrite (regAddr r) .word v) ((s.answer (.write .okay)).dropWrite)
  /-- A register written while nothing runs. -/
  | stored (r : Reg) (v : Word) (hr : r ≠ .cmd) (hb : s.busy = false) :
      Moved s (.hostWrite (regAddr r) .word v) ((s.answer (.write .okay)).storeReg r v)
  /-- A command accepted. -/
  | commanded (i : Instr) (hb : s.busy = false) (he : s.err = false ∨ i = .clrerr) :
      Moved s (.hostWrite 0x004 .word (encode i))
        (commandEffect i (s.answer (.write .okay)).accept)
  /-- An illegal word accepted for decoding. -/
  | illegal (w : Word) (hw : ∀ i, w ≠ encode i) (hb : s.busy = false) (he : s.err = false) :
      Moved s (.hostWrite 0x004 .word w)
        ((s.answer (.write .okay)).accept.raiseError .illegalCommand w)
  /-- The sequencer has no enabled step. -/
  | held (h : s.run = .idle ∨ s.run = .pack) : Moved s .sequencer s
  /-- A sample that is not the last. -/
  | sampled (k : Kind) (hr : s.run = .gen k) (hi : s.gidx.toNat < s.cfg.cycleDepth)
      (hl : s.gidx + 1 ≠ s.plat) : Moved s .sequencer (s.storeSample k)
  /-- The last sample. -/
  | generated (k : Kind) (hr : s.run = .gen k) (hi : s.gidx.toNat < s.cfg.cycleDepth)
      (hl : s.gidx + 1 = s.plat) : Moved s .sequencer (s.storeSample k).finishGen
  /-- A byte that is not the last. -/
  | sent (hr : s.run = .pack) (hc : s.outReady = true) (hl : s.offeredByte.last = false) :
      Moved s .sequencer s.handOver
  /-- The last byte. -/
  | streamed (hr : s.run = .pack) (hc : s.outReady = true) (hl : s.offeredByte.last = true) :
      Moved s .sequencer s.handOver.finishPack
  /-- The consumer sets its level. -/
  | consumed (b : Bool) : Moved s (.consumer b) { s with outReady := b }
  /-- A reset. -/
  | wasReset (d : Fin 4294967295) : Moved s (.reset d) (s.resetBlock d)

theorem sequencerTurn_moved (h : sequencerTurn s = .next t) : Moved s .sequencer t := by
  unfold sequencerTurn at h
  split at h
  · next hr => cases h; exact .held (.inl hr)
  · next k hr =>
    unfold genStep at h
    split_ifs at h with h1 h2 <;> cases h
    · exact .generated k hr h1 h2
    · exact .sampled k hr h1 h2
  · next hr =>
    split_ifs at h with h1
    · unfold packStep at h
      split_ifs at h with h2 h3 h4 <;> cases h
      · exact .streamed hr h1 h4
      · exact .sent hr h1 (by simpa using h4)
    · cases h; exact .held (.inr hr)

theorem issue_moved {w : Word} (h : issue w (s.answer (.write .okay)) = .next t) :
    Moved s (.hostWrite 0x004 .word w) t := by
  have ha : accessed s.cfg.cycleDepth (regAddr .cmd) .word = some .cmd := rfl
  unfold issue at h
  split at h
  · next i hd =>
    obtain rfl := eq_encode_of_decode hd
    rcases exec_cases h with ⟨hd, rfl⟩ | ⟨hb, he, rfl⟩
    · exact .dropped .cmd _ ha (hd.imp_right fun ⟨h1, h2⟩ => ⟨h1, rfl, mt encode_eq_clrerr.1 h2⟩)
    · exact .commanded i hb he
  · next e hd =>
    cases h
    rcases acceptCommand_cases w (fun t => t.raiseError .illegalCommand w)
      (s.answer (.write .okay)) with ⟨hd, h⟩ | ⟨hb, he, h⟩ <;> rw [h]
    · exact .dropped .cmd _ ha (hd.imp_right fun ⟨h1, h2⟩ => ⟨h1, rfl, h2⟩)
    · have hw : ∀ i, w ≠ encode i := by
        rintro i rfl
        rw [decode_encode] at hd
        cases hd
      refine .illegal w hw hb (he.resolve_right fun hc => hw .clrerr hc)

/-- Every next state of a move is one of these. -/
theorem takeEvent_moved {e : Event} (h : takeEvent e s = .next t) : Moved s e t := by
  cases e with
  | hostRead a z =>
    simp only [takeEvent, busRead] at h
    split at h <;> cases h <;> exact .answered _ _
  | hostWrite a z v =>
    simp only [takeEvent, busWrite] at h
    split at h
    · cases h; exact .answered _ _
    · next ha =>
      obtain ⟨rfl, ha⟩ := accessed_eq_some.1 ha
      obtain ⟨rfl, -⟩ := regAddr_of_regAt ha
      exact issue_moved h
    · next r hne ha =>
      obtain ⟨rfl, ha⟩ := accessed_eq_some.1 ha
      obtain ⟨rfl, -⟩ := regAddr_of_regAt ha
      cases h
      unfold State.writeReg
      split_ifs with hb
      · exact .dropped r v ha (.inl hb)
      · exact .stored r v (fun hr => hne hr) (by simpa [State.busy] using hb)
  | sequencer => exact sequencerTurn_moved h
  | consumer b => cases h; exact .consumed b
  | reset d => cases h; exact .wasReset d

theorem step_moved (h : step s = .next t) : Moved s.popped s.nextEvent t :=
  takeEvent_moved (step_eq s ▸ h)

end Sys2Proof.Machine
end

