-- ==== Sys2Proof/Laws/Sequencer.lean ====
section
/-! SUPPORT. Iterating the sequencer: turns add up, and what one turn of a generation or of a stream does to
the fields a run's proof follows. -/

namespace Sys2Proof.Machine

variable {s t : State}

theorem sequencerTurns_succ (n : Nat) (h : sequencerTurn s = .next t) :
    sequencerTurns (n + 1) s = sequencerTurns n t := by
  simp only [sequencerTurns, h]

/-- Turns add up. -/
theorem sequencerTurns_add {m : Nat} (n : Nat) (h : sequencerTurns m s = .next t) :
    sequencerTurns (m + n) s = sequencerTurns n t := by
  induction m generalizing s with
  | zero => cases h; simp
  | succ m ih =>
    simp only [sequencerTurns] at h
    rw [show m + 1 + n = (m + n) + 1 by omega]
    split at h
    · next u hu =>
      rw [sequencerTurns_succ _ hu]
      exact ih h
    · cases h
    · cases h

theorem sequencerTurns_snoc {m : Nat} {u : State} (h : sequencerTurns m s = .next t)
    (hu : sequencerTurn t = .next u) : sequencerTurns (m + 1) s = .next u := by
  rw [sequencerTurns_add 1 h, sequencerTurns_succ 0 hu]
  rfl

theorem sequencerTurn_gen {k : Kind} (h : s.run = .gen k) : sequencerTurn s = genStep k s := by
  simp only [sequencerTurn, h]

theorem sequencerTurn_pack (h : s.run = .pack) (hr : s.outReady = true) :
    sequencerTurn s = packStep s := by
  simp only [sequencerTurn, h, hr, if_true]

theorem genStep_last {k : Kind} (hi : s.gidx.toNat < s.cfg.cycleDepth) (hl : s.gidx + 1 = s.plat) :
    genStep k s = .next (s.storeSample k).finishGen := by
  simp only [genStep, if_pos hi, if_pos hl]

theorem genStep_more {k : Kind} (hi : s.gidx.toNat < s.cfg.cycleDepth) (hl : s.gidx + 1 ≠ s.plat) :
    genStep k s = .next (s.storeSample k) := by
  simp only [genStep, if_pos hi, if_neg hl]

theorem packStep_last (hp : s.period ≠ 0) (hi : s.tileIndex < s.cfg.cycleDepth)
    (hl : s.offeredByte.last = true) : packStep s = .next s.handOver.finishPack := by
  simp only [packStep, if_neg hp, if_pos hi, hl, if_true]

theorem packStep_more (hp : s.period ≠ 0) (hi : s.tileIndex < s.cfg.cycleDepth)
    (hl : s.offeredByte.last = false) : packStep s = .next s.handOver := by
  simp only [packStep, if_neg hp, if_pos hi, hl, Bool.false_eq_true, if_false]

theorem tileIndex_lt (hp : s.period ≠ 0) : s.tileIndex < s.period.toNat := by
  refine Nat.mod_lt _ (Nat.pos_of_ne_zero fun h => hp ?_)
  exact BitVec.eq_of_toNat_eq h

theorem handOver_low (h : s.bph = .low) : s.handOver = { s.emit s.offeredByte with bph := .high } := by
  simp only [State.handOver, h]

theorem handOver_high (h : s.bph = .high) :
    s.handOver = { s.emit s.offeredByte with bph := .low, sidx := s.sidx + 1 } := by
  simp only [State.handOver, h]

theorem offeredByte_low (h : s.bph = .low) :
    s.offeredByte = ⟨(readEntry s.cyc s.tileIndex).extractLsb' 0 8, false⟩ := by
  simp only [State.offeredByte, h]

theorem offeredByte_high (h : s.bph = .high) :
    s.offeredByte =
      ⟨(readEntry s.cyc s.tileIndex).extractLsb' 8 8, decide (s.sidx = s.nsamp - 1)⟩ := by
  simp only [State.offeredByte, h]

end Sys2Proof.Machine
end

