-- ==== Sys2Proof/Laws/Sine.lean ====
section
/-! SUPPORT. What is known of `sinFn` (R109), the error of the reference sine of 93 G2, and why the
contract's error bound cannot be 0. -/

namespace Sys2Proof.Machine

/-! ### The datapath's function -/

/-- Clause 3 of R109. -/
@[simp] theorem sinFn_zero (cfg : Config) : sinFn cfg 0 = 0 := (@Config.sinRaw cfg.sinEps ⟨sinWitness cfg.sinEps⟩).2.1

/-- Clause 4 of R109. -/
theorem sinFn_abs (cfg : Config) {x : Rat} (h0 : 0 ≤ x) (h1 : x < 1) : |sinFn cfg x| ≤ 1 :=
  (@Config.sinRaw cfg.sinEps ⟨sinWitness cfg.sinEps⟩).2.2.1 x h0 h1

/-- Clause 2 of R109. -/
theorem sinFn_near {cfg : Config} (h : 0 < cfg.sinEps) : SinNear cfg.sinEps (sinFn cfg) :=
  (@Config.sinRaw cfg.sinEps ⟨sinWitness cfg.sinEps⟩).2.2.2 h

/-- With the error bound 0 clause 2 asks for the real sine, which is irrational at an eighth of a turn. -/
theorem not_sinNear_zero (f : Rat → Rat) : ¬ SinNear 0 f := by
  intro h
  have h8 := h (1 / 8) (by norm_num) (by norm_num)
  rw [show 2 * Real.pi * (((1 / 8 : Rat)) : ℝ) = Real.pi / 4 by push_cast; ring, Real.sin_pi_div_four,
    Rat.cast_zero, abs_nonpos_iff, sub_eq_zero] at h8
  exact irrational_sqrt_two ⟨2 * f (1 / 8), by push_cast; rw [h8]; ring⟩

/-! ### The reference instance -/

/-- The series of 93 G2 has eight terms. -/
theorem sinSeries_eq (θ : Rat) : sinSeries θ = sinPartial 8 θ := by
  simp only [sinSeries, sinPartial, Nat.factorial]
  push_cast
  ring

theorem sinSeries_neg (θ : Rat) : sinSeries (-θ) = -sinSeries θ := by
  unfold sinSeries; ring

/-- `PI_Q` is within 10^-14 of pi. -/
theorem piQ_near : |((piQ : Rat) : ℝ) - Real.pi| ≤ 1 / 10 ^ 14 := by
  have h1 := Real.pi_gt_d20
  have h2 := Real.pi_lt_d20
  rw [show ((piQ : Rat) : ℝ) = 3141592653589793 / 1000000000000000 by unfold piQ; push_cast; rfl, abs_le]
  constructor <;> norm_num at h1 h2 ⊢ <;> linarith

/-- The argument of the series lies within `PI_Q/2` of 0. -/
theorem sinRef_arg_range {x : Rat} (h0 : 0 ≤ x) (h1 : x < 1) : |2 * piQ * sinTurn x| ≤ 1.5708 := by
  have hp : (0 : Rat) < 2 * piQ := by norm_num [piQ]
  rw [abs_mul, abs_of_pos hp]
  refine (mul_le_mul_of_nonneg_left (sinTurn_range h0 h1) hp.le).trans ?_
  norm_num [piQ]

/-- Eight terms at a non-negative argument: the nine-term sum bounds the error from both sides, as 93 G2
argues from the alternating terms. -/
theorem sinSeries_near {θ : Rat} (h0 : 0 ≤ θ) (h2 : θ ≤ 1.5708) :
    Real.sin ((θ : Rat) : ℝ) - 62 / 10 ^ 13 ≤ ((sinSeries θ : Rat) : ℝ) ∧
      ((sinSeries θ : Rat) : ℝ) ≤ Real.sin ((θ : Rat) : ℝ) := by
  have h0' : (0 : ℝ) ≤ ((θ : Rat) : ℝ) := by exact_mod_cast h0
  have h2' : ((θ : Rat) : ℝ) ≤ 1.5708 := by
    have := (Rat.cast_le (K := ℝ)).2 h2; push_cast at this; exact this
  have hs := sinPartial_near (θ := θ) (n := 9) (by norm_num)
    (by rw [abs_of_nonneg h0']; norm_num at h2' ⊢; linarith)
  rw [sinPartial, ← sinSeries_eq, abs_of_nonneg h0', abs_le] at hs
  push_cast at hs
  have e19 : ((θ : Rat) : ℝ) ^ (2 * 9 + 1) / (Nat.factorial (2 * 9 + 1)) * 2 =
      ((θ : Rat) : ℝ) ^ 17 / 355687428096000 * (((θ : Rat) : ℝ) ^ 2 / 171) := by
    norm_num [Nat.factorial]; ring
  have e17 : (-1 : ℝ) ^ 8 * ((θ : Rat) : ℝ) ^ (2 * 8 + 1) / (Nat.factorial (2 * 8 + 1)) =
      ((θ : Rat) : ℝ) ^ 17 / 355687428096000 := by norm_num [Nat.factorial]
  rw [e19, e17] at hs
  have hq : ((θ : Rat) : ℝ) ^ 17 ≤ 1.5708 ^ 17 := pow_le_pow_left₀ h0' h2' _
  have hq0 : (0 : ℝ) ≤ ((θ : Rat) : ℝ) ^ 17 := pow_nonneg h0' _
  have hsq : ((θ : Rat) : ℝ) ^ 2 / 171 ≤ 1 / 50 := by norm_num at h2' ⊢; nlinarith
  have hprod : ((θ : Rat) : ℝ) ^ 17 / 355687428096000 * (((θ : Rat) : ℝ) ^ 2 / 171) ≤
      ((θ : Rat) : ℝ) ^ 17 / 355687428096000 * (1 / 50) :=
    mul_le_mul_of_nonneg_left hsq (by positivity)
  norm_num at hq hprod hs ⊢
  constructor <;> linarith

/-- `SIN_REF` lies in [-1, 1] and is within 7*10^-12 of the sine (93 G2). -/
theorem sinRef_near {x : Rat} (h0 : 0 ≤ x) (h1 : x < 1) :
    |sinRef x| ≤ 1 ∧
      |((sinRef x : Rat) : ℝ) - Real.sin (2 * Real.pi * (x : ℝ))| ≤ 7 / 10 ^ 12 := by
  have hr := abs_le.1 ((sin_reduced_near (p := piQ) h0 h1).trans
    (div_le_div_of_nonneg_right piQ_near (by norm_num)))
  have ha := abs_le.1 (sinRef_arg_range h0 h1)
  have key : |((sinRef x : Rat) : ℝ)| ≤ 1 ∧
      |((sinRef x : Rat) : ℝ) - Real.sin ((2 * piQ * sinTurn x : Rat) : ℝ)| ≤ 62 / 10 ^ 13 := by
    unfold sinRef
    generalize 2 * piQ * sinTurn x = θ at ha
    have nonneg : ∀ θ : Rat, 0 ≤ θ → θ ≤ 1.5708 → |((sinSeries θ : Rat) : ℝ)| ≤ 1 ∧
        |((sinSeries θ : Rat) : ℝ) - Real.sin ((θ : Rat) : ℝ)| ≤ 62 / 10 ^ 13 := by
      intro θ h0 h2
      obtain ⟨l, u⟩ := sinSeries_near h0 h2
      have h2' : ((θ : Rat) : ℝ) ≤ 1.5708 := by
        have := (Rat.cast_le (K := ℝ)).2 h2; push_cast at this; exact this
      have hs := Real.sin_nonneg_of_nonneg_of_le_pi (x := ((θ : Rat) : ℝ)) (by exact_mod_cast h0)
        (by have := Real.pi_gt_three; norm_num at h2' ⊢; linarith)
      have h1 := Real.sin_le_one ((θ : Rat) : ℝ)
      rw [abs_le, abs_le]
      norm_num at l ⊢
      exact ⟨⟨by linarith, by linarith⟩, by linarith, by linarith⟩
    rcases le_total 0 θ with h | h
    · exact nonneg θ h ha.2
    · have hn := nonneg (-θ) (by linarith) (by linarith)
      rw [sinSeries_neg] at hn
      push_cast at hn
      rw [Real.sin_neg, abs_neg, ← neg_sub', abs_neg] at hn
      exact hn
  refine ⟨by exact_mod_cast key.1, ?_⟩
  have k := abs_le.1 key.2
  rw [abs_le]
  norm_num at hr k ⊢
  constructor <;> linarith [hr.1, hr.2, k.1, k.2]

/-- 93 G2: `SIN_REF` meets the contract of R109 for every error bound of 7*10^-12 or more. -/
theorem sinRef_contract {eps : Rat} (h : 7 / 10 ^ 12 ≤ eps) : SinContract eps sinRef := by
  refine ⟨by norm_num [sinRef, sinTurn, sinSeries], fun x h0 h1 => (sinRef_near h0 h1).1,
    fun _ x h0 h1 => (sinRef_near h0 h1).2.trans ?_⟩
  simpa using (Rat.cast_le (K := ℝ)).2 h

/-- The datapath's sine is within `SIN_EPS` and the reference's error of `SIN_REF`, which can be
evaluated. -/
theorem sinFn_near_sinRef {cfg : Config} (h : 0 < cfg.sinEps) {x : Rat} (h0 : 0 ≤ x) (h1 : x < 1) :
    |sinFn cfg x - sinRef x| ≤ cfg.sinEps + 7 / 10 ^ 12 := by
  have a := abs_le.1 (sinFn_near h x h0 h1)
  have b := abs_le.1 (sinRef_near h0 h1).2
  rw [← Rat.cast_le (K := ℝ)]
  push_cast
  rw [abs_le]
  constructor <;> linarith [a.1, a.2, b.1, b.2]

end Sys2Proof.Machine
end

