-- ==== Sys2Proof/Tests/Slice0.lean ====
section
/-! SUPPORT. The model's own tests, with results from spec/95_test_vectors.md, and one named witness per
obligation with hypotheses: a concrete state and operands that meet all of them together. -/

namespace Sys2Proof.Tests

open Sys2Proof Sys2Proof.Machine

/-! ### Helpers -/

/-- A quantity of the next state of an outcome. -/
def read {α : Type} (f : State → α) : Host.Outcome State Fault Refusal → Option α
  | .next s => some (f s)
  | .fault _ => none
  | .refused _ => none

/-- Idle, no error, `PRNG = 1`, everything else as after reset. -/
def idle : State := { State.reset with prng := 1 }

/-- Idle with operands: 4410 Hz (`p = 10`), amplitude 1, `DUR` 7 (`N = 4`). -/
def loaded : State := { idle with freq := 0x113A0000, amp := 0x00010000, dur := 0x00000007 }

/-- `loaded` with a held cycle of one entry, `CYC[0] = -32765` (V-PACK). -/
def holding : State := { loaded with period := 1, cyc := writeEntry [] 0 0x8003, outReady := true }

/-- A running triangle of `p = 10` at index `g`. -/
def running (g : Word) : State := { loaded with run := .gen .tri, plat := 10, gidx := g }

/-- A running stream of 4 samples of the one-entry cycle. -/
def streaming (i : Word) (b : BytePhase) : State :=
  { holding with run := .pack, nsamp := 4, sidx := i, bph := b }

/-- An error is recorded (V-SYS: `STATUS = 0x04`, `ERRCODE = 3`, `ERRCMD = 0x20`). -/
def faulted : State := { loaded with err := true, errcode := 3, errcmd := 0x20 }

/-- `loaded` with another frequency and duty cycle. -/
def tuned (f : Word) (d : Byte) : State := { loaded with freq := f, duty := d }

/-- The host's next move is a write of a word. -/
def writing (addr : Nat) (v : Word) (s : State) : State :=
  { s with schedule := [.hostWrite addr .word v] }

/-! ### Well-formedness: an ill-formed term for each check, which the check refuses -/

theorem test_reserved_refused : (fieldsOf 0x00000100).reservedOk = false := by decide
theorem test_major_refused : (fieldsOf 0x00000050).majorOk = false := by decide
theorem test_minor_refused : (fieldsOf 0x00000021).minorOk = false := by decide
theorem test_kind_refused : (fieldsOf 0x00000015).minorOk = false := by decide
theorem test_illformed_words_refused :
    (fieldsOf 0x00000100).wellFormed = false ∧ (fieldsOf 0x00000050).wellFormed = false ∧
    (fieldsOf 0x00000021).wellFormed = false ∧ (fieldsOf 0x00000015).wellFormed = false := by decide
theorem test_depth_refused :
    ({ Config.standard with cycleDepth := 0 } : Config).depthOk = false ∧
    ({ Config.standard with cycleDepth := 4294967296 } : Config).depthOk = false ∧
    ({ Config.standard with cycleDepth := 4294967295 } : Config).depthOk = true := by decide
theorem test_eps_refused :
    ({ Config.standard with sinEps := -1 / 16777216 } : Config).epsOk = false ∧
    ({ Config.standard with sinEps := 1 / 65536 } : Config).epsOk = false ∧
    ({ Config.standard with sinEps := 0 } : Config).epsOk = true := by decide +kernel
theorem test_standard_wellFormed : Config.standard.wellFormed = true := by decide +kernel

/-! ### Decoding (V-DEC), one word written out bit by bit from R80 and R81 per command -/

theorem test_decode_nop : decode 0b00000000000000000000000000000000#32 = .ok .nop := by rfl
theorem test_decode_genSine : decode 0b00000000000000000000000000010000#32 = .ok .genSine := by rfl
theorem test_decode_genTri : decode 0b00000000000000000000000000010001#32 = .ok .genTri := by rfl
theorem test_decode_genSaw : decode 0b00000000000000000000000000010010#32 = .ok .genSaw := by rfl
theorem test_decode_genPulse : decode 0b00000000000000000000000000010011#32 = .ok .genPulse := by rfl
theorem test_decode_genNoise : decode 0b00000000000000000000000000010100#32 = .ok .genNoise := by rfl
theorem test_decode_pack : decode 0b00000000000000000000000000100000#32 = .ok .pack := by rfl
theorem test_decode_seed : decode 0b00000000000000000000000000110000#32 = .ok .seed := by rfl
theorem test_decode_clrerr : decode 0b00000000000000000000000001000000#32 = .ok .clrerr := by rfl
theorem test_decode_illegal :
    decode 0x00000001 = .error .minorNotZero ∧ decode 0x00000031 = .error .minorNotZero ∧
    decode 0x00000041 = .error .minorNotZero ∧ decode 0x000000F0 = .error .majorOutOfRange ∧
    decode 0x00000100 = .error .reservedNotZero ∧ decode 0xFFFFFFFF = .error .reservedNotZero := by
  exact ⟨rfl, rfl, rfl, rfl, rfl, rfl⟩
theorem test_table_word : decodeTableWord 32 0x14 = some .genNoise ∧ decodeTableWord 32 0x15 = none := by
  exact ⟨rfl, rfl⟩

/-! ### The bus (V-BUS) -/

theorem test_bus_id : (busRead 0x000 .word idle).reply = some (.read .okay 0x434E4F31) := by decide
theorem test_bus_duty_reset : (busRead 0x02C .word idle).reply = some (.read .okay 0x00000032) := by decide
theorem test_bus_unmapped :
    (busRead 0x018 .word idle).reply = some (.read .err 0) ∧
    (busRead 0x002 .word idle).reply = some (.read .err 0) ∧
    (busRead 0x000 .byte idle).reply = some (.read .err 0) := by decide
theorem test_bus_window_edge :
    (busRead 0x4FFC .word idle).reply = some (.read .okay 0) ∧
    (busRead 0x5000 .word idle).reply = some (.read .err 0) := by decide
theorem test_bus_duty_write :
    read (State.readReg · .duty) (busWrite 0x02C .word 0x00000164 idle) = some 0x00000064 := by decide
theorem test_bus_ctrl_write :
    read (State.readReg · .ctrl) (busWrite 0x014 .word 0xFFFFFFFF idle) = some 0x00000003 := by decide
theorem test_bus_amp_write :
    read (State.readReg · .amp) (busWrite 0x024 .word 0xFFFF8000 idle) = some 0xFFFF8000 := by decide

/-! ### Commands: at most two small theorems each, one step (V-SYS, V-ERR, V-PER) -/

theorem test_nop : read State.statusWord (exec .nop idle) = some 0x02 := by decide
theorem test_nop_dropped : read State.statusWord (exec .nop faulted) = some 0x0C := by decide
theorem test_seed : read State.prng (exec .seed { idle with seed := 0xDEADBEEF }) = some 0xDEADBEEF := by
  decide
theorem test_seed_zero : read State.prng (exec .seed { idle with prng := 9 }) = some 1 := by decide
theorem test_clrerr :
    read (fun s => (s.statusWord, s.errcode, s.errcmd)) (exec .clrerr { faulted with ovr := true }) =
      some (0x02, 0, 0) := by decide
theorem test_clrerr_keeps_cycle :
    read State.statusWord (exec .clrerr { holding with done := true, ovr := true }) = some 0x12 := by
  decide
theorem test_genSine_zero_frequency :
    read (fun s => (s.statusWord, s.errcode, s.errcmd)) (exec .genSine idle) = some (0x04, 1, 0x10) := by
  decide
theorem test_genSine_period :
    read State.plat (exec .genSine { idle with freq := 0x01B80000 }) = some 100 := by decide
theorem test_genTri_invalidates :
    read (fun s => (s.statusWord, s.plat)) (exec .genTri holding) = some (0x01, 10) := by decide
theorem test_genSaw_sample_rate :
    read (fun s => (s.errcode, s.errcmd)) (exec .genSaw { idle with freq := 0xAC440000 }) =
      some (1, 0x12) := by decide
theorem test_genPulse_duty :
    read (fun s => (s.errcode, s.errcmd, s.period))
      (exec .genPulse { holding with freq := 0x00640000, duty := 0 }) = some (2, 0x13, 0) := by decide
theorem test_genPulse_period_before_duty :
    read State.errcode (exec .genPulse { idle with freq := 0x000A0000, duty := 0 }) = some 4 := by decide
theorem test_genNoise_least_frequency :
    read State.plat (exec .genNoise { idle with freq := 0x000AC394 }) = some 4096 ∧
    read State.errcode (exec .genNoise { idle with freq := 0x000AC393 }) = some 4 := by decide
theorem test_pack_empty :
    read (fun s => (s.statusWord, s.errcode, s.errcmd)) (exec .pack loaded) = some (0x04, 3, 0x20) := by
  decide
theorem test_pack_count : read State.nsamp (exec .pack holding) = some 4 := by decide
theorem test_illegal_word :
    read (fun s => (s.errcode, s.errcmd, s.period)) (issue 0x15 holding) = some (5, 0x15, 1) := by decide

/-- The first command after reset (R44, V-SYS `NOP`, V-ERR `PACK`). -/
theorem test_first_command :
    read State.statusWord (step (State.reset.withFetchWord 32 0x00)) = some 0x02 ∧
    read State.errcode (step (State.reset.withFetchWord 32 0x20)) = some 3 ∧
    read State.errcode (step (State.reset.withFetchWord 32 0x14)) = some 1 := by decide

/-! ### Sequencer steps, samples and bytes (V-TRI, V-SAW, V-PUL, V-PRNG, V-NOI, V-QNT, V-PACK) -/

theorem test_triangle_wraps :
    read (fun s => readEntry s.cyc 0) (sequencerTurn (running 0)) = some 0x6668 := by decide +kernel
theorem test_triangle_second :
    read (fun s => (readEntry s.cyc 1).toInt) (sequencerTurn (running 1)) = some (-26214) := by
  decide +kernel
theorem test_saw_ties :
    quant16 (sawSample 0x2B110000 1 0) = -32767 ∧ quant16 (sawSample 0x2B110000 1 1) = -16384 ∧
    quant16 (sawSample 0x2B110000 1 3) = 16384 := by decide +kernel
theorem test_pulse_threshold :
    thresholdOf 50 441 = 220 ∧ pulseSample 50 441 1 219 = 1 ∧ pulseSample 50 441 1 220 = -1 := by
  decide +kernel
theorem test_amplitude_clamps :
    amplitude 0xFFFF8000 = 0 ∧ amplitude 0x00018000 = 1 ∧ amplitude 0x00008000 = 1 / 2 := by
  decide +kernel
theorem test_noise_first : quant16 (noiseSample (1 / 2) 1) = 2 := by decide +kernel
theorem test_noise_third : quant16 (noiseSample (1 / 2) 0x04080601) = -12570 := by decide +kernel
theorem test_quantiser_half : quant16 (1 / 2) = 16384 ∧ quant16 (-3 / 2) = 16386 ∧ quant16 (-3) = -32765 := by decide +kernel

/-- Where `SIN_REF` and the two bounds around it quantise alike, so does every `SIN_FN`. -/
theorem sine_sample {x : Rat} {z : Int} (h0 : 0 ≤ x) (h1 : x < 1) (hz : -32768 ≤ z ∧ z ≤ 32767)
    (lo : z ≤ rhe ((sinRef x - (1 / 16777216 + 7 / 10 ^ 12)) * 32767))
    (hi : rhe ((sinRef x + (1 / 16777216 + 7 / 10 ^ 12)) * 32767) ≤ z) :
    quant16 (sinFn Config.standard x) = z := by
  have h := abs_le.1 (sinFn_near_sinRef (cfg := Config.standard) (by norm_num [Config.standard]) h0 h1)
  have he : Config.standard.sinEps = 1 / 16777216 := rfl
  rw [he] at h
  have l := lo.trans (rhe_mono (r := sinFn Config.standard x * 32767) (by linarith [h.1]))
  have u := (rhe_mono (q := sinFn Config.standard x * 32767) (by linarith [h.2])).trans hi
  rw [quant16, le_antisymm u l, wrap16_of_range hz.1 hz.2]

theorem test_sine_440 :
    phaseTurns 0x01B80000 1 = 22 / 2205 ∧ quant16 (sinFn Config.standard (22 / 2205)) = 2053 :=
  ⟨by decide +kernel, sine_sample (by norm_num) (by norm_num) (by decide) (by decide +kernel)
    (by decide +kernel)⟩
theorem test_sine_440_negative :
    phaseTurns 0x01B80000 74 = 1628 / 2205 ∧ quant16 (sinFn Config.standard (1628 / 2205)) = -32679 :=
  ⟨by decide +kernel, sine_sample (by norm_num) (by norm_num) (by decide) (by decide +kernel)
    (by decide +kernel)⟩
theorem test_pack_bytes :
    read (fun s => s.out.getLast?) (sequencerTurn (streaming 0 .low)) = some (some ⟨0x03, false⟩) ∧
    read (fun s => s.out.getLast?) (sequencerTurn (streaming 0 .high)) = some (some ⟨0x80, false⟩) := by
  decide
theorem test_pack_last :
    read (fun s => (s.out.getLast?, s.statusWord)) (sequencerTurn (streaming 3 .high)) =
      some (some ⟨0x80, true⟩, 0x12) := by decide

/-! ### States that meet the invariant -/

theorem inv_idle : idle.Inv := by
  refine ⟨test_standard_wellFormed, by decide, by decide, by decide, by decide, by decide, by decide,
    fun k h => ?_, fun h => ?_, by decide⟩ <;> exact absurd h (by simp [idle, State.reset])

theorem inv_loaded : loaded.Inv := by
  refine ⟨test_standard_wellFormed, by decide, by decide, by decide, by decide, by decide, by decide,
    fun k h => ?_, fun h => ?_, by decide⟩ <;> exact absurd h (by simp [loaded, idle, State.reset])

theorem inv_holding : holding.Inv := by
  refine ⟨test_standard_wellFormed, by decide, by decide, by decide, by decide, by decide, by decide,
    fun k h => ?_, fun h => ?_, by decide⟩ <;>
    exact absurd h (by simp [holding, loaded, idle, State.reset])

theorem inv_running : (running 9).Inv := by
  refine ⟨test_standard_wellFormed, by decide, by decide, by decide, by decide, by decide, by decide,
    fun k _ => by decide, fun h => ?_, by decide⟩
  exact absurd h (by simp [running])

theorem inv_streaming : (streaming 3 .high).Inv := by
  refine ⟨test_standard_wellFormed, by decide, by decide, by decide, by decide, by decide, by decide,
    fun k h => ?_, fun _ => by decide, by decide⟩
  exact absurd h (by simp [streaming])

theorem inv_faulted : faulted.Inv := by
  refine ⟨test_standard_wellFormed, by decide, by decide, by decide, by decide, by decide, by decide,
    fun k h => ?_, fun h => ?_, by decide⟩ <;>
    exact absurd h (by simp [faulted, loaded, idle, State.reset])

theorem ready_loaded : loaded.Ready := ⟨by decide, by decide⟩
theorem ready_holding : holding.Ready := ⟨by decide, by decide⟩

/-! ### Witnesses: the hypotheses of each obligation, met together -/

theorem witness_WordSelectsCommandExactly :
    Instr.genTri.wellFormed = true ∧ (0x00000011 : Word) = encode .genTri := by decide

theorem witness_IllegalWordsAreRefusedByReason :
    ((0x00000100 : Word).toNat / 256 ≠ 0) ∧
    ((0x00000050 : Word).toNat / 256 = 0 ∧ 5 ≤ (0x00000050 : Word).toNat / 16) ∧
    ((0x00000015 : Word).toNat / 16 = 1 ∧ 5 ≤ (0x00000015 : Word).toNat % 16) ∧
    ((0x00000041 : Word).toNat / 16 = 4 ∧ (0x00000041 : Word).toNat % 16 ≠ 0) := by decide

theorem witness_StepRunsTheDecodedCommand :
    (writing 0x004 0x11 loaded).schedule = .hostWrite 0x004 .word 0x11 :: [] ∧
    decode 0x11 = .ok .genTri ∧ Instr.genTri.wellFormed = true := ⟨rfl, rfl, rfl⟩

theorem witness_IllegalWordRaisesIllegalCommand :
    ((writing 0x004 0x15 loaded).schedule = .hostWrite 0x004 .word 0x15 :: [] ∧
      (writing 0x004 0x15 loaded).busy = false ∧ (writing 0x004 0x15 loaded).err = false) ∧
    ((writing 0x004 0x15 faulted).schedule = .hostWrite 0x004 .word 0x15 :: [] ∧
      (writing 0x004 0x15 faulted).err = true) ∧
    ∀ i, (0x15 : Word) ≠ encode i :=
  ⟨⟨rfl, by decide, by decide⟩, ⟨rfl, by decide⟩, fun i => by cases i <;> decide⟩

theorem witness_LegalWriteRule :
    (∀ i, Reg.cycwin 4095 = .cycwin i → i < loaded.cfg.cycleDepth) ∧ loaded.busy = false ∧
    (running 0).busy = true :=
  ⟨fun i h => by cases h; decide, by decide, by decide⟩

theorem witness_LegalAccessesAndOthers :
    accessed idle.cfg.cycleDepth 0x4FFC .word = some (.cycwin 4095) ∧
    accessed idle.cfg.cycleDepth 0x044 .word = some .nsamp ∧
    accessed idle.cfg.cycleDepth 0x5000 .word = none ∧
    accessed idle.cfg.cycleDepth 0x0FFC .word = none ∧
    accessed idle.cfg.cycleDepth 0x044 .half = none := by decide

theorem witness_RegistersStandAtTheirOffsets :
    (0x044, Reg.nsamp) ∈ [(0x040, Reg.period), (0x044, .nsamp)] ∧ 0 < idle.cfg.cycleDepth ∧
    4095 < idle.cfg.cycleDepth := by decide

theorem witness_ReadsAreSnapshotsWithoutEffect :
    ∀ i, Reg.cycwin 0 = .cycwin i → i < (running 3).cfg.cycleDepth :=
  fun i h => by cases h; decide

theorem witness_CycleWindowMasksInvalidEntries :
    (0 < holding.cfg.cycleDepth ∧ 0 < holding.period.toNat) ∧
    (1 < holding.cfg.cycleDepth ∧ holding.period.toNat ≤ 1) ∧
    (4095 < (running 9).cfg.cycleDepth ∧ (running 9).Inv ∧ (running 9).run = .gen .tri) ∧
    (4095 < (streaming 3 .high).cfg.cycleDepth ∧ (streaming 3 .high).run = .pack ∧
      ∃ t, takeEvent .sequencer (streaming 3 .high) = .next t) :=
  ⟨by decide, by decide, ⟨by decide, inv_running, rfl⟩, by decide, rfl, _, rfl⟩

theorem witness_InterruptOutputLevel :
    faulted.Inv ∧ ({ faulted with ctrl := 2 } : State).irq = true ∧
    ({ faulted with ctrl := 1 } : State).irq = false := ⟨inv_faulted, by decide, by decide⟩

theorem witness_NopCompletes :
    loaded.Ready ∧ (faulted.busy = false ∧ faulted.err = true) ∧ (running 0).busy = true ∧
    ({ loaded with ctrl := 1 } : State).ctrl.getLsbD 0 = true :=
  ⟨ready_loaded, by decide, by decide, by decide⟩

theorem witness_SeedLoadsTheGenerator :
    loaded.Ready ∧ loaded.seed = 0 ∧ ({ loaded with seed := 0xDEADBEEF } : State).seed ≠ 0 ∧
    ∃ t, takeEvent (.hostWrite 0x030 .word 5) loaded = .next t :=
  ⟨ready_loaded, by decide, by decide, _, rfl⟩

theorem witness_ClrerrReturnsFromError :
    (faulted.busy = false ∧ faulted.err = true) ∧ (loaded.busy = false ∧ loaded.err = false) ∧
    (running 0).busy = true ∧ Instr.pack ≠ .clrerr := by decide

theorem witness_GenerationStarts :
    (Instr.genPulse, Kind.pulse) ∈ [(Instr.genSine, Kind.sine), (.genTri, .tri), (.genSaw, .saw),
      (.genPulse, .pulse), (.genNoise, .noise)] ∧
    ((tuned 0x000AC394 1).Ready ∧ 1 ≤ (tuned 0x000AC394 1).freq.toNat ∧
      (tuned 0x000AC394 1).freq.toNat < 44100 * 65536 ∧
      44100 * 65536 / (tuned 0x000AC394 1).freq.toNat ≤ (tuned 0x000AC394 1).cfg.cycleDepth ∧
      1 ≤ (tuned 0x000AC394 1).duty.toNat ∧ (tuned 0x000AC394 1).duty.toNat ≤ 100) ∧
    ((tuned 0xAC43FFFF 100).Ready ∧ 1 ≤ (tuned 0xAC43FFFF 100).freq.toNat ∧
      (tuned 0xAC43FFFF 100).freq.toNat < 44100 * 65536 ∧
      44100 * 65536 / (tuned 0xAC43FFFF 100).freq.toNat ≤ (tuned 0xAC43FFFF 100).cfg.cycleDepth ∧
      1 ≤ (tuned 0xAC43FFFF 100).duty.toNat ∧ (tuned 0xAC43FFFF 100).duty.toNat ≤ 100) ∧
    (tuned 0x000AC394 1).cfg.wellFormed = true :=
  ⟨by decide, ⟨⟨by decide, by decide⟩, by decide⟩, ⟨⟨by decide, by decide⟩, by decide⟩,
    test_standard_wellFormed⟩

theorem witness_GenerationErrorsInOrder :
    ((tuned 0 50).Ready ∧ (tuned 0 50).freq.toNat = 0) ∧
    ((tuned 0xAC440000 50).Ready ∧ 44100 * 65536 ≤ (tuned 0xAC440000 50).freq.toNat) ∧
    ((tuned 0x000AC393 50).Ready ∧ 1 ≤ (tuned 0x000AC393 50).freq.toNat ∧
      (tuned 0x000AC393 50).freq.toNat < 44100 * 65536 ∧
      (tuned 0x000AC393 50).cfg.cycleDepth < 44100 * 65536 / (tuned 0x000AC393 50).freq.toNat) ∧
    ((tuned 0x000AC394 101).Ready ∧ 1 ≤ (tuned 0x000AC394 101).freq.toNat ∧
      (tuned 0x000AC394 101).freq.toNat < 44100 * 65536 ∧
      44100 * 65536 / (tuned 0x000AC394 101).freq.toNat ≤ (tuned 0x000AC394 101).cfg.cycleDepth ∧
      100 < (tuned 0x000AC394 101).duty.toNat) ∧ (tuned 0x000AC394 0).duty.toNat = 0 :=
  ⟨⟨⟨by decide, by decide⟩, by decide⟩, ⟨⟨by decide, by decide⟩, by decide⟩,
    ⟨⟨by decide, by decide⟩, by decide⟩, ⟨⟨by decide, by decide⟩, by decide⟩, by decide⟩

theorem witness_PackStartsOrCompletes :
    (holding.Ready ∧ holding.period ≠ 0 ∧ 44100 * holding.dur.toNat / 65536 ≠ 0) ∧
    (({ holding with dur := 1 } : State).Ready ∧ ({ holding with dur := 1 } : State).period ≠ 0 ∧
      44100 * ({ holding with dur := 1 } : State).dur.toNat / 65536 = 0) :=
  ⟨⟨ready_holding, by decide⟩, ⟨by decide, by decide⟩, by decide⟩

theorem witness_PackOfNoCycleRaisesEmptyCycle : loaded.Ready ∧ loaded.period = 0 :=
  ⟨ready_loaded, by decide⟩

theorem witness_CommandsAreDroppedWhenBusyOrFaulted :
    (streaming 0 .low).busy = true ∧ faulted.busy = false ∧ faulted.err = true ∧
    Instr.genSaw ≠ .clrerr := by decide

theorem witness_CommandFrame :
    (∃ t, exec .genTri loaded = .next t) ∧ (∃ t, exec .nop (running 0) = .next t) ∧
    (∀ k : Kind, Instr.pack ≠ k.command) ∧ ({ loaded with ovr := true } : State).ovr = true :=
  ⟨⟨_, rfl⟩, ⟨_, rfl⟩, fun k => by cases k <;> decide, rfl⟩

theorem witness_SampleStep :
    (running 9).run = .gen .tri ∧ (running 9).gidx.toNat < (running 9).cfg.cycleDepth ∧
    Memory.wf (running 9).cyc = true ∧ 8 ≠ (running 9).gidx.toNat ∧
    (running 9).gidx + 1 = (running 9).plat ∧ (running 8).gidx + 1 ≠ (running 8).plat := by decide

theorem witness_GenerationRunsToCompletion :
    loaded.Inv ∧ loaded.Ready ∧ 1 ≤ loaded.freq.toNat ∧ loaded.freq.toNat < 44100 * 65536 ∧
    10 = 44100 * 65536 / loaded.freq.toNat ∧ 10 ≤ loaded.cfg.cycleDepth ∧
    (1 ≤ loaded.duty.toNat ∧ loaded.duty.toNat ≤ 100) ∧
    ∀ k : Kind, ∃ t, exec k.command loaded = .next t :=
  ⟨inv_loaded, ready_loaded, by decide, by decide, by decide, by decide, by decide,
    fun k => by cases k <;> exact ⟨_, rfl⟩⟩

theorem witness_ByteStep :
    (∀ b : BytePhase, (streaming 3 b).run = .pack ∧ (streaming 3 b).outReady = true ∧
      (streaming 3 b).period ≠ 0 ∧ (streaming 3 b).period.toNat ≤ (streaming 3 b).cfg.cycleDepth) ∧
    (streaming 3 .high).sidx = (streaming 3 .high).nsamp - 1 ∧
    (streaming 2 .high).sidx ≠ (streaming 2 .high).nsamp - 1 :=
  ⟨fun b => by cases b <;> decide, by decide, by decide⟩

theorem witness_StreamPortsOfferTheNextByte :
    (streaming 0 .low).bph = .low ∧ (streaming 3 .high).bph = .high ∧
    (streaming 3 .high).run = .pack ∧ idle.run ≠ .pack := by decide

theorem witness_StreamRunsToCompletion :
    holding.Inv ∧ holding.Ready ∧ holding.period ≠ 0 ∧ holding.outReady = true ∧
    4 = 44100 * holding.dur.toNat / 65536 ∧ ∃ t, exec .pack holding = .next t :=
  ⟨inv_holding, ready_holding, by decide, by decide, by decide, _, rfl⟩

theorem witness_IdleAndStalledSequencerHolds :
    idle.run = .idle ∧ (streaming 3 .high).Inv ∧ (streaming 3 .high).run = .pack ∧
    ({ streaming 0 .low with outReady := false } : State).run = .pack ∧
    ({ streaming 0 .low with outReady := false } : State).outReady = false :=
  ⟨rfl, inv_streaming, rfl, rfl, rfl⟩

theorem witness_PeriodIsFloorOfRateOverFrequency :
    (1 ≤ 1 ∧ 1 < 44100 * 65536) ∧ (1 ≤ 0xAC43FFFF ∧ 0xAC43FFFF < 44100 * 65536) := by decide

theorem witness_AmplitudeIsClampedSilently :
    ampClamped ({ loaded with amp := 0xFFFF8000 } : State).amp = ampClamped 0 ∧
    ampClamped ({ loaded with amp := 0x00018000 } : State).amp = ampClamped 0x00010000 ∧
    ∀ k : Kind, ∃ t, exec k.command loaded = .next t :=
  ⟨by decide, by decide, fun k => by cases k <;> exact ⟨_, rfl⟩⟩

theorem witness_SamplesFollowTheFormulas :
    1 ≤ periodOf loaded.freq.toNat ∧ 1 ≤ periodOf (0xAC43FFFF : Word).toNat ∧
    0x0004 = (xs32^[0 + 1] loaded.prng).toNat / 65536 := by decide

theorem witness_PulseLevelsAndThreshold :
    loaded.duty.toNat ≤ 100 ∧ ({ loaded with duty := 100 } : State).duty.toNat ≤ 100 := by decide

theorem witness_SampleRanges :
    1 ≤ loaded.freq.toNat ∧ loaded.freq.toNat < 44100 * 65536 ∧ 9 < periodOf loaded.freq.toNat ∧
    0 < 9 ∧ 0 < amplitude loaded.amp :=
  ⟨by decide, by decide, by decide, by decide, by decide +kernel⟩

theorem witness_QuantizerRoundsToEvenAndWraps :
    |(rhe (1 / 2) : Rat) - 1 / 2| = 1 / 2 ∧ |rhe ((1 : Rat) * 32767)| ≤ 32767 ∧
    ¬ |rhe ((-3 : Rat) * 32767)| ≤ 32767 := by decide +kernel

theorem witness_TriangleFirstEntryWraps : (1 ≤ 43689 ∧ 43689 ≤ 43689) ∧ (1 ≤ 43690 ∧ ¬ 43690 ≤ 43689) := by
  decide

theorem witness_UniformValueGrid :
    0x7FFF = (0x7FFFFFFF : Word).toNat / 65536 ∧ 0x8000 = (0x80000000 : Word).toNat / 65536 := by decide

theorem witness_GeneratorStepIsABijection : (0x00000001 : Word) ≠ 0 := by decide

theorem witness_SineFunctionMeetsItsContract :
    0 < Config.standard.sinEps ∧ (0 : Rat) ≤ 1 / 4 ∧ (1 / 4 : Rat) < 1 := by decide +kernel

theorem witness_SineContractAdmitsEveryConformingFunction :
    (0 : Rat) < 1 / 16777216 ∧ (7 / 10 ^ 12 : Rat) ≤ 1 / 16777216 ∧
    (sinRef 0 = 0 ∧ (∀ x : Rat, 0 ≤ x → x < 1 → |sinRef x| ≤ 1) ∧ SinNear (1 / 16777216) sinRef) :=
  ⟨by norm_num, by norm_num,
    (sinRef_contract (eps := 1 / 16777216) (by norm_num)).1,
    (sinRef_contract (eps := 1 / 16777216) (by norm_num)).2.1,
    (sinRef_contract (by norm_num)).2.2 (by norm_num)⟩

theorem witness_ConformingSinesDifferByAtMostOne :
    loaded.cfg.wellFormed = true ∧ 0 < loaded.cfg.sinEps ∧ SinContract loaded.cfg.sinEps sinRef ∧
    1 ≤ loaded.freq.toNat ∧ loaded.freq.toNat < 44100 * 65536 ∧
    9 < 44100 * 65536 / loaded.freq.toNat :=
  ⟨test_standard_wellFormed, by decide +kernel, sinRef_contract (by decide +kernel), by decide, by decide,
    by decide⟩

theorem witness_ResetLeavesTheResetValues : (0xFFFFFFFF : Word) ≠ 0 ∧ (1 : Word) ≠ 0 := by decide

theorem witness_EveryStepKeepsTheInvariant :
    (running 9).Inv ∧ (∃ t, step (running 9) = .next t) ∧ (streaming 3 .high).Inv ∧
    ∃ t, step (streaming 3 .high) = .next t :=
  ⟨inv_running, ⟨_, rfl⟩, inv_streaming, ⟨_, rfl⟩⟩

theorem witness_InvariantStatesNeverStop : (running 9).Inv ∧ (streaming 3 .high).Inv :=
  ⟨inv_running, inv_streaming⟩

theorem witness_OnlyNoiseSeedAndResetChangeTheGenerator :
    (∃ t, step { running 9 with run := .gen .noise } = .next t) ∧
    ∃ t, step (writing 0x004 0x30 loaded) = .next t := ⟨⟨_, rfl⟩, ⟨_, rfl⟩⟩

theorem witness_OutputOnlyGrows : ∃ t, step (streaming 0 .low) = .next t := ⟨_, rfl⟩

theorem witness_FirstErrorIsKept :
    faulted.err = true ∧ (∃ t, step faulted = .next t) ∧
    ∃ t, step (writing 0x004 0x40 faulted) = .next t := ⟨rfl, ⟨_, rfl⟩, ⟨_, rfl⟩⟩

theorem witness_OverrunIsStickyAndMarksDroppedWrites :
    (∃ t, step (writing 0x020 5 { running 3 with ovr := true }) = .next t ∧
      ({ running 3 with ovr := true } : State).ovr = true) ∧
    (running 3).ovr = false ∧ read State.ovr (step (writing 0x020 5 (running 3))) = some true ∧
    read State.ovr (step (writing 0x004 0x00 faulted)) = some true ∧
    read State.ovr (step (writing 0x018 5 (running 3))) = some false :=
  ⟨⟨_, rfl, rfl⟩, rfl, by decide, by decide, by decide⟩

theorem witness_OperandsChangeOnlyByTheirOwnWrites :
    (∃ t, step (writing 0x020 5 loaded) = .next t ∧ t.freq ≠ loaded.freq) ∧
    (∀ d, (writing 0x020 5 loaded).nextEvent ≠ .reset d) ∧
    ∃ t, step { loaded with schedule := [.reset 3] } = .next t :=
  ⟨⟨_, rfl, by decide⟩, (fun d h => by cases h), _, rfl⟩

theorem witness_CycleIsWrittenByGenerationsOnly :
    (∃ t, step (running 9) = .next t) ∧ (∀ d, (running 9).nextEvent ≠ .reset d) ∧
    8 / 2 ≠ (running 9).gidx.toNat := ⟨⟨_, rfl⟩, (fun d h => by cases h), by decide⟩

theorem witness_CycleDependsOnItsOperandsOnly :
    loaded.Inv ∧ ({ loaded with amp := 0x00018000, dur := 1 } : State).Inv ∧ loaded.Ready ∧
    ({ loaded with amp := 0x00018000, dur := 1 } : State).Ready ∧
    ampClamped loaded.amp = ampClamped 0x00018000 ∧ 1 ≤ loaded.freq.toNat ∧
    loaded.freq.toNat < 44100 * 65536 ∧ 10 = 44100 * 65536 / loaded.freq.toNat ∧
    10 ≤ loaded.cfg.cycleDepth ∧ (1 ≤ loaded.duty.toNat ∧ loaded.duty.toNat ≤ 100) ∧
    ∀ k : Kind, (∃ t, exec k.command loaded = .next t) ∧
      ∃ t, exec k.command { loaded with amp := 0x00018000, dur := 1 } = .next t := by
  refine ⟨inv_loaded, ⟨test_standard_wellFormed, by decide, by decide, by decide, by decide, by decide,
    by decide, fun k h => ?_, fun h => ?_, by decide⟩, ready_loaded, ⟨by decide, by decide⟩, by decide,
    by decide, by decide, by decide, by decide, by decide,
    fun k => by cases k <;> exact ⟨⟨_, rfl⟩, _, rfl⟩⟩ <;>
    exact absurd h (by simp [loaded, idle, State.reset])

end Sys2Proof.Tests
end

section
/-! The quantiser (R8, R150, R151): where `wrap16` has no effect `Quant16` is plain rounding, and it
inherits the symmetry of `rhe`. -/

namespace Sys2Proof.Machine

/-- No wrap occurs while the rounded product fits 16 bits (R150). -/
theorem quant16_eq_rhe {s : Rat} (h1 : -32768 ≤ rhe (s * 32767)) (h2 : rhe (s * 32767) ≤ 32767) :
    quant16 s = rhe (s * 32767) :=
  wrap16_of_range h1 h2

/-- Oddness needs the symmetric range: `-32768` is a value of `Quant16` whose negation wraps. -/
theorem quant16_neg {s : Rat} (h : |rhe (s * 32767)| ≤ 32767) : quant16 (-s) = -quant16 s := by
  obtain ⟨h1, h2⟩ := abs_le.1 h
  have hneg : rhe (-s * 32767) = -rhe (s * 32767) := by rw [neg_mul, rhe_neg]
  rw [quant16_eq_rhe (s := s) (by omega) h2, quant16_eq_rhe (by omega) (by omega), hneg]

/-- Settles O35: rounding, wrapping, their composition and the stored pattern are the quantiser's laws;
oddness holds where both roundings stay inside the symmetric range, so neither wraps. -/
theorem quantizerRoundsToEvenAndWraps : Obligations.QuantizerRoundsToEvenAndWraps := by
  refine ⟨fun q => ⟨rhe_near q, rhe_tie⟩, fun z => ?wrap, fun s => ⟨rfl, ?composed⟩, fun s h => ?noWrap,
    quantPattern_toInt⟩
  case wrap => exact ⟨(wrap16_range z).1, (wrap16_range z).2, wrap16_congr z⟩
  case composed => exact ⟨(wrap16_range _).1, (wrap16_range _).2, wrap16_congr _⟩
  case noWrap =>
    obtain ⟨h1, h2⟩ := abs_le.1 h
    exact ⟨quant16_neg h, quant16_eq_rhe (by omega) h2⟩

end Sys2Proof.Machine
end

section
/-! The invariant of R46 under each named update of the state, and from these under every move. -/

namespace Sys2Proof.Machine

variable {s t : State}

/-! ### Updates that keep what the invariant speaks of -/

theorem State.Inv.popped (h : s.Inv) : s.popped.Inv := { h with }

theorem State.Inv.answer (h : s.Inv) (r : BusReply) : (s.answer r).Inv := { h with }

theorem State.Inv.dropWrite (h : s.Inv) : s.dropWrite.Inv := { h with }

theorem State.Inv.setOutReady (h : s.Inv) (b : Bool) : ({ s with outReady := b } : State).Inv :=
  { h with }

/-- No writable register (R65) is one the invariant speaks of. -/
theorem State.Inv.storeReg (h : s.Inv) (r : Reg) (v : Word) : (s.storeReg r v).Inv := by
  cases r <;> exact { h with }

theorem State.Inv.accept (h : s.Inv) : s.accept.Inv :=
  { h with
    busyQuiet := fun hb => ⟨(h.busyQuiet hb).1, rfl⟩
    doneQuiet := fun hd => absurd hd Bool.false_ne_true }

theorem State.Inv.setPrng (h : s.Inv) {x : Word} (hx : x ≠ 0) : (s.setPrng x).Inv :=
  { h with prngNonzero := hx }

theorem State.Inv.clearRecord (h : s.Inv) : s.clearRecord.Inv :=
  { h with
    busyQuiet := fun hb => ⟨rfl, (h.busyQuiet hb).2⟩
    doneQuiet := fun hd => ⟨(h.doneQuiet hd).1, rfl⟩
    errCode := by simp
    errCmd := fun _ => rfl }

/-! ### Idle states -/

/-- With nothing running the clauses of a generation and of a stream are empty, and `BUSY` excludes
nothing. -/
theorem State.Inv.of_idle (hrun : s.run = .idle) (hcfg : s.cfg.wellFormed = true)
    (hper : s.period.toNat ≤ s.cfg.cycleDepth) (hprng : s.prng ≠ 0)
    (hquiet : s.done = true → s.err = false) (hcode : s.err = true ↔ s.errcode ≠ 0)
    (hcmd : s.err = false → s.errcmd = 0)
    (hram : Memory.wf s.cyc = true ∧ Memory.within s.cfg.cycleDepth s.cyc = true) : s.Inv where
  config := hcfg
  periodBound := hper
  prngNonzero := hprng
  busyQuiet hb := absurd hrun (State.busy_true_iff.1 hb)
  doneQuiet hd := ⟨State.busy_false_iff.2 hrun, hquiet hd⟩
  errCode := hcode
  errCmd := hcmd
  generating k hk := by rw [hrun] at hk; cases hk
  streaming hp := by rw [hrun] at hp; cases hp
  ram := hram

theorem State.Inv.markDone (h : s.Inv) (hrun : s.run = .idle) (he : s.err = false) : s.markDone.Inv :=
  .of_idle hrun h.config h.periodBound h.prngNonzero (fun _ => he) h.errCode h.errCmd h.ram

theorem State.Inv.setCount (h : s.Inv) (hrun : s.run = .idle) (n : Word) : (s.setCount n).Inv :=
  { h with streaming := fun hp => by rw [State.setCount_run, hrun] at hp; cases hp }

theorem errorCode_ne_zero (e : BlockError) : errorCode e ≠ 0 := by cases e <;> decide

/-- Error entry (R194) on a state that has just been accepted: `PERIOD` is kept or cleared. -/
theorem State.Inv.raiseError (h : s.Inv) (hrun : s.run = .idle) (hd : s.done = false)
    (e : BlockError) (w : Word) : (s.raiseError e w).Inv := by
  refine .of_idle hrun h.config ?period h.prngNonzero (by simp [hd]) ?code (by simp) h.ram
  case period =>
    rw [State.raiseError_period]
    split
    · exact Nat.zero_le _
    · exact h.periodBound
  case code => simpa using errorCode_ne_zero e

theorem prngOfDraw_toNat (d : Fin 4294967295) : (prngOfDraw d).toNat = d.val + 1 := by
  rw [prngOfDraw, BitVec.toNat_ofNat, Nat.mod_eq_of_lt (by omega)]

theorem prngOfDraw_ne_zero (d : Fin 4294967295) : prngOfDraw d ≠ 0 := by
  have := prngOfDraw_toNat d
  bv_omega

/-- A reset needs nothing of the state it comes from but an admissible configuration. -/
theorem resetBlock_inv (h : s.cfg.wellFormed = true) (d : Fin 4294967295) : (s.resetBlock d).Inv :=
  .of_idle rfl h (Nat.zero_le _) (prngOfDraw_ne_zero d) (fun _ => rfl) (by simp) (fun _ => rfl) ⟨rfl, rfl⟩

/-! ### The commands -/

theorem State.Inv.cycleDepth_lt (h : s.Inv) : s.cfg.cycleDepth < 4294967296 := by
  have := h.config
  simp only [Config.wellFormed, Config.depthOk, Bool.and_eq_true, decide_eq_true_eq] at this
  omega

theorem State.Inv.startGen (h : s.Inv) (he : s.err = false) (hd : s.done = false) (k : Kind) {p : Word}
    (h1 : 1 ≤ p.toNat) (hp : p.toNat ≤ s.cfg.cycleDepth) : (s.startGen k p).Inv :=
  { h with
    periodBound := Nat.zero_le _
    busyQuiet := fun _ => ⟨he, hd⟩
    doneQuiet := fun hd' => by rw [State.startGen_done, hd] at hd'; cases hd'
    generating := fun _ _ => ⟨rfl, h1, hp, h1⟩
    streaming := fun hr => by cases hr }

theorem State.Inv.startPack (h : s.Inv) (he : s.err = false) (hd : s.done = false)
    (hp : 1 ≤ s.period.toNat) (hn : 1 ≤ s.nsamp.toNat) : s.startPack.Inv :=
  { h with
    busyQuiet := fun _ => ⟨he, hd⟩
    doneQuiet := fun hd' => by rw [State.startPack_done, hd] at hd'; cases hd'
    generating := fun _ hr => by cases hr
    streaming := fun _ => ⟨hp, hn, hn⟩ }

/-- The period fits its register because it fits the cycle RAM (R101, R112). -/
theorem genIssue_inv (h : s.Inv) (hrun : s.run = .idle) (he : s.err = false) (hd : s.done = false)
    (k : Kind) (w : Word) : (genIssue k w s).Inv := by
  rcases genIssue_cases k w s with ⟨e, hi⟩ | ⟨hf, hp, -, hi⟩ <;> rw [hi]
  · exact h.raiseError hrun hd e w
  · have hlt := h.cycleDepth_lt
    have hpat : (BitVec.ofNat 32 (periodOf s.freqPattern)).toNat = periodOf s.freqPattern := by
      rw [BitVec.toNat_ofNat, Nat.mod_eq_of_lt (by omega)]
    exact h.startGen he hd k (by rw [hpat]; exact (periodOf_bounds hf).1) (by rwa [hpat])

theorem packIssue_inv (h : s.Inv) (hrun : s.run = .idle) (he : s.err = false) (hd : s.done = false)
    (w : Word) : (packIssue w s).Inv := by
  rcases packIssue_cases w s with ⟨-, hi⟩ | ⟨-, -, hi⟩ | ⟨hp, hn, hi⟩ <;> rw [hi]
  · exact h.raiseError hrun hd _ w
  · exact (h.setCount hrun 0).markDone hrun he
  · have hle : sampleCountOf s.durPattern ≤ 2890137599 := sampleCountOf_le s.dur
    have hcount : (BitVec.ofNat 32 (sampleCountOf s.durPattern)).toNat = sampleCountOf s.durPattern := by
      rw [BitVec.toNat_ofNat, Nat.mod_eq_of_lt (by omega)]
    have hp1 : 1 ≤ s.period.toNat := by bv_omega
    exact (h.setCount hrun _).startPack he hd hp1
      (Nat.one_le_iff_ne_zero.2 (by rwa [State.setCount_nsamp, hcount]))

theorem commandEffect_inv (h : s.Inv) (hrun : s.run = .idle) (hd : s.done = false) {i : Instr}
    (he : s.err = false ∨ i = .clrerr) : (commandEffect i s).Inv := by
  by_cases hi : i = .clrerr
  · subst hi
    exact h.clearRecord.markDone hrun rfl
  · have he' : s.err = false := he.resolve_right hi
    cases i with
    | nop => exact h.markDone hrun he'
    | genSine | genTri | genSaw | genPulse | genNoise => exact genIssue_inv h hrun he' hd _ _
    | pack => exact packIssue_inv h hrun he' hd _
    | seed => exact (h.setPrng (seedValue_ne_zero _)).markDone hrun he'
    | clrerr => exact absurd rfl hi

/-! ### The sequencer -/

theorem prngAfter_ne_zero (h : s.prng ≠ 0) (k : Kind) : s.prngAfter k ≠ 0 := by
  cases k with
  | noise => exact xs32_ne_zero h
  | sine | tri | saw | pulse => exact h

theorem writeEntry_ram (h : s.Inv) (hi : s.gidx.toNat < s.cfg.cycleDepth) (q : Half) :
    Memory.wf (writeEntry s.cyc s.gidx.toNat q) = true ∧
      Memory.within s.cfg.cycleDepth (writeEntry s.cyc s.gidx.toNat q) = true :=
  ⟨writeEntry_wf h.ram.1 _ _, writeEntry_within h.ram.2 hi _⟩

/-- Below its last index a running generation advances within `plat`. -/
theorem storeSample_inv (h : s.Inv) {k : Kind} (hrun : s.run = .gen k)
    (hi : s.gidx.toNat < s.cfg.cycleDepth) (hl : s.gidx + 1 ≠ s.plat) : (s.storeSample k).Inv :=
  { h with
    prngNonzero := prngAfter_ne_zero h.prngNonzero k
    generating := fun _ _ => by
      obtain ⟨hper, h1, hle, hlt⟩ := h.generating k hrun
      exact ⟨hper, h1, hle, by simp only [State.storeSample_gidx, State.storeSample_plat]; bv_omega⟩
    streaming := fun hp => by rw [State.storeSample_run, hrun] at hp; cases hp
    ram := writeEntry_ram h hi _ }

/-- The last sample makes `plat`, which fits the cycle RAM, the period. -/
theorem finishGen_storeSample_inv (h : s.Inv) {k : Kind} (hrun : s.run = .gen k)
    (hi : s.gidx.toNat < s.cfg.cycleDepth) : (s.storeSample k).finishGen.Inv := by
  obtain ⟨-, -, hle, -⟩ := h.generating k hrun
  have hbusy : s.busy = true := State.busy_true_iff.2 (by simp [hrun])
  exact .of_idle rfl h.config hle (prngAfter_ne_zero h.prngNonzero k) (fun _ => (h.busyQuiet hbusy).1)
    h.errCode h.errCmd (writeEntry_ram h hi _)

/-- The sample index advances with an unmarked high byte only, so it stays below `NSAMP`. -/
theorem handOver_sidx_lt (h : s.Inv) (hrun : s.run = .pack) (hl : s.offeredByte.last = false) :
    s.handOver.sidx.toNat < s.nsamp.toNat := by
  obtain ⟨-, h1, hlt⟩ := h.streaming hrun
  cases hb : s.bph with
  | low => rw [handOver_low hb]; exact hlt
  | high =>
    rw [offeredByte_high hb, decide_eq_false_iff_not] at hl
    rw [handOver_high hb]
    bv_omega

/-- Handing a byte over moves `OUT`, the byte phase and the sample index only. -/
theorem handOver_eq (s : State) : s.handOver =
    { s with out := s.out ++ [s.offeredByte], bph := s.handOver.bph, sidx := s.handOver.sidx } := by
  unfold State.handOver
  split <;> rfl

theorem handOver_inv (h : s.Inv) (hrun : s.run = .pack) (hl : s.offeredByte.last = false) :
    s.handOver.Inv := by
  obtain ⟨hp, h1, -⟩ := h.streaming hrun
  have hlt := handOver_sidx_lt h hrun hl
  rw [handOver_eq]
  exact { h with streaming := fun _ => ⟨hp, h1, hlt⟩ }

theorem finishPack_handOver_inv (h : s.Inv) (hrun : s.run = .pack) : s.handOver.finishPack.Inv := by
  have hbusy : s.busy = true := State.busy_true_iff.2 (by simp [hrun])
  rw [handOver_eq]
  exact .of_idle rfl h.config h.periodBound h.prngNonzero (fun _ => (h.busyQuiet hbusy).1) h.errCode
    h.errCmd h.ram

/-! ### Every move -/

theorem Moved.inv {e : Event} (hm : Moved s e t) (h : s.Inv) : t.Inv := by
  cases hm with
  | answered _ r => exact h.answer r
  | dropped r v _ _ => exact (h.answer _).dropWrite
  | stored r v _ _ => exact (h.answer _).storeReg r v
  | commanded i hb he =>
    exact commandEffect_inv (h.answer _).accept (State.busy_false_iff.1 hb) rfl he
  | illegal w _ hb _ => exact (h.answer _).accept.raiseError (State.busy_false_iff.1 hb) rfl _ w
  | held _ => exact h
  | sampled k hrun hi hl => exact storeSample_inv h hrun hi hl
  | generated k hrun hi _ => exact finishGen_storeSample_inv h hrun hi
  | sent hrun _ hl => exact handOver_inv h hrun hl
  | streamed hrun _ _ => exact finishPack_handOver_inv h hrun
  | consumed b => exact h.setOutReady b
  | wasReset d => exact resetBlock_inv h.config d

/-- Settles O45: a step is one move from the popped state, and every move keeps the invariant. -/
theorem everyStepKeepsTheInvariant : Obligations.EveryStepKeepsTheInvariant :=
  fun _ _ h hs => (step_moved hs).inv h.popped

theorem standard_wellFormed : Config.standard.wellFormed = true := by
  norm_num [Config.wellFormed, Config.depthOk, Config.epsOk, Config.standard]

/-- Settles O44: the power-up state is a reset of itself by the power-up draw. -/
theorem resetStateMeetsTheInvariant : Obligations.ResetStateMeetsTheInvariant :=
  resetBlock_inv (s := State.reset) standard_wellFormed Config.powerUpDraw

end Sys2Proof.Machine
end

section
/-! The frame of a command and of a move (R45, R23, R37 to R41): which field changes by which of them. -/

namespace Sys2Proof.Machine

variable {s t : State} {e : Event}

/-! ### The commands -/

/-- Settles O22: a dropped command leaves its mark only, and an accepted one has the frame of its
effect on the accepted state. -/
theorem commandFrame : Obligations.CommandFrame := by
  intro i s t h
  rcases exec_cases h with ⟨-, rfl⟩ | ⟨-, -, rfl⟩
  · simp
  · obtain ⟨hops, hcyc, hout, hown, hprng, hpack, hgen, hrun, hrec, hovr⟩ :=
      commandEffect_frame i s.accept
    exact ⟨hops, fun _ => by rw [hcyc]; rfl, hcyc, hout, hown, hprng, hpack, hgen, hrun, hrec,
      fun hi ho => (hovr hi).trans ho⟩

@[simp] theorem commandEffect_cyc (i : Instr) (s : State) : (commandEffect i s).cyc = s.cyc :=
  let ⟨_, h, _⟩ := commandEffect_frame i s; h

@[simp] theorem commandEffect_out (i : Instr) (s : State) : (commandEffect i s).out = s.out :=
  let ⟨_, _, h, _⟩ := commandEffect_frame i s; h

@[simp] theorem commandEffect_cfg (i : Instr) (s : State) : (commandEffect i s).cfg = s.cfg :=
  let ⟨_, _, _, ⟨h, _⟩, _⟩ := commandEffect_frame i s; h

theorem commandEffect_prng {i : Instr} (hi : i ≠ .seed) (s : State) :
    (commandEffect i s).prng = s.prng :=
  let ⟨_, _, _, _, h, _⟩ := commandEffect_frame i s; h hi

theorem commandEffect_nsamp {i : Instr} (hi : i ≠ .pack) (s : State) :
    (commandEffect i s).nsamp = s.nsamp :=
  let ⟨_, _, _, _, _, h, _⟩ := commandEffect_frame i s; (h hi).1

theorem commandEffect_period {i : Instr} (hi : ∀ k : Kind, i ≠ k.command) (s : State) :
    (commandEffect i s).period = s.period :=
  let ⟨_, _, _, _, _, _, h, _⟩ := commandEffect_frame i s; (h hi).1

/-- A `GEN_*` invalidates the held cycle whether it starts (R101) or fails (R194). -/
theorem commandEffect_command_period (k : Kind) (s : State) :
    (commandEffect k.command s).period = 0 := by
  rw [commandEffect_gen]
  rcases genIssue_cases k (encode k.command) s with ⟨e, h⟩ | ⟨-, -, -, h⟩ <;> rw [h]
  · rw [State.raiseError_period, isGenWord_command, if_pos rfl]
  · rfl

/-- The words that invalidate the held cycle (R194) are among the legal ones. -/
theorem isGenWord_of_illegal {w : Word} (hw : ∀ i, w ≠ encode i) : isGenWord w = false := by
  simpa [isGenWord, encode, and_assoc] using
    And.intro (hw .genSine) ⟨hw .genTri, hw .genSaw, hw .genPulse, hw .genNoise⟩

/-! ### Register writes -/

@[simp] theorem State.storeReg_prng (s : State) (r : Reg) (v : Word) :
    (s.storeReg r v).prng = s.prng := by cases r <;> rfl
@[simp] theorem State.storeReg_out (s : State) (r : Reg) (v : Word) :
    (s.storeReg r v).out = s.out := by cases r <;> rfl
@[simp] theorem State.storeReg_cfg (s : State) (r : Reg) (v : Word) :
    (s.storeReg r v).cfg = s.cfg := by cases r <;> rfl
@[simp] theorem State.storeReg_cyc (s : State) (r : Reg) (v : Word) :
    (s.storeReg r v).cyc = s.cyc := by cases r <;> rfl
@[simp] theorem State.storeReg_period (s : State) (r : Reg) (v : Word) :
    (s.storeReg r v).period = s.period := by cases r <;> rfl
@[simp] theorem State.storeReg_nsamp (s : State) (r : Reg) (v : Word) :
    (s.storeReg r v).nsamp = s.nsamp := by cases r <;> rfl

/-! ### The generator -/

theorem prngAfter_cases (s : State) (k : Kind) :
    s.prngAfter k = s.prng ∨ k = .noise ∧ s.prngAfter k = xs32 s.prng := by
  cases k with
  | noise => exact .inr ⟨rfl, rfl⟩
  | sine | tri | saw | pulse => exact .inl rfl

theorem Moved.prng (h : Moved s e t) :
    t.prng = s.prng ∨ (e = .sequencer ∧ s.run = .gen .noise ∧ t.prng = xs32 s.prng) ∨
      (e = .hostWrite 0x004 .word 0x00000030 ∧ s.Ready) ∨ ∃ d, e = .reset d := by
  cases h with
  | answered | dropped | illegal | held | consumed => exact .inl rfl
  | stored r v => exact .inl (State.storeReg_prng _ r v)
  | commanded i hb he =>
    by_cases hi : i = .seed
    · subst hi
      exact .inr (.inr (.inl ⟨rfl, hb, he.resolve_right (by decide)⟩))
    · exact .inl (commandEffect_prng hi _)
  | sampled k hr | generated k hr =>
    rcases prngAfter_cases s k with hk | ⟨rfl, hk⟩
    · exact .inl hk
    · exact .inr (.inl ⟨rfl, hr, hk⟩)
  | sent | streamed => exact .inl s.handOver_prng
  | wasReset d => exact .inr (.inr (.inr ⟨d, rfl⟩))

/-- Settles O47: `PRNG` through every move. -/
theorem onlyNoiseSeedAndResetChangeTheGenerator :
    Obligations.OnlyNoiseSeedAndResetChangeTheGenerator :=
  fun _ _ h => (step_moved h).prng

/-! ### The output -/

theorem Moved.out (h : Moved s e t) :
    t.out = s.out ∨
      (e = .sequencer ∧ s.run = .pack ∧ s.outReady = true ∧ t.out = s.out ++ [s.offeredByte]) := by
  cases h with
  | answered | dropped | illegal | held | consumed | sampled | generated | wasReset => exact .inl rfl
  | stored r v => exact .inl (State.storeReg_out _ r v)
  | commanded i => exact .inl (commandEffect_out i _)
  | sent hr hc | streamed hr hc => exact .inr ⟨rfl, hr, hc, s.handOver_out⟩

/-- Settles O48: `OUT` through every move. -/
theorem outputOnlyGrows : Obligations.OutputOnlyGrows := fun _ _ h => (step_moved h).out

/-! ### The operands and the configuration -/

theorem Moved.cfg (h : Moved s e t) : t.cfg = s.cfg := by
  cases h with
  | answered | dropped | illegal | held | consumed | sampled | generated | wasReset => rfl
  | stored r v => exact State.storeReg_cfg _ r v
  | commanded i => exact commandEffect_cfg i _
  | sent | streamed => exact s.handOver_cfg

/-- The operand registers and `CTRL` are kept but by a reset or by the storing of a register. -/
theorem Moved.operands (h : Moved s e t) (hreset : ∀ d, e ≠ .reset d) :
    (t.freq = s.freq ∧ t.amp = s.amp ∧ t.dur = s.dur ∧ t.duty = s.duty ∧ t.seed = s.seed ∧
      t.ctrl = s.ctrl) ∨
    ∃ r v, s.busy = false ∧ e = .hostWrite (regAddr r) .word v ∧
      t = (s.answer (.write .okay)).storeReg r v := by
  cases h with
  | answered | dropped | illegal | held | consumed | sampled | generated =>
    exact .inl ⟨rfl, rfl, rfl, rfl, rfl, rfl⟩
  | stored r v _ hb => exact .inr ⟨r, v, hb, rfl, rfl⟩
  | commanded i =>
    obtain ⟨hops, -⟩ := commandEffect_frame i (s.answer (.write .okay)).accept
    exact .inl hops
  | sent | streamed => simp
  | wasReset d => exact absurd rfl (hreset d)

/-- Settles O51: a stored register is one of those R65 names, at its own address. -/
theorem operandsChangeOnlyByTheirOwnWrites : Obligations.OperandsChangeOnlyByTheirOwnWrites := by
  intro s t h
  refine ⟨(step_moved h).cfg, fun hreset => ?_⟩
  rcases (step_moved h).operands hreset with ⟨hf, ha, hd, hu, hs, hc⟩ | ⟨r, v, hb, he, rfl⟩
  · exact ⟨.inl hf, .inl ha, .inl hd, .inl hu, .inl hs, .inl hc⟩
  · have hb : s.busy = false := hb
    rw [he]
    cases r <;> simp [State.storeReg, regAddr, hb, State.popped]

/-! ### The cycle RAM, the period and the sample count -/

theorem readByte_writeEntry_ne (m : Memory) {i a : Nat} (h : a / 2 ≠ i) (q : Half) :
    readByte (writeEntry m i q) a = readByte m a := by
  rw [writeEntry, readByte_writeByte_ne _ (by omega), readByte_writeByte_ne _ (by omega)]

theorem Moved.cyc (h : Moved s e t) (hreset : ∀ d, e ≠ .reset d) :
    (∀ a, readByte t.cyc a = readByte s.cyc a) ∨
      (e = .sequencer ∧ (∃ k, s.run = .gen k) ∧
        ∀ a, a / 2 ≠ s.gidx.toNat → readByte t.cyc a = readByte s.cyc a) := by
  cases h with
  | answered | dropped | illegal | held | consumed => exact .inl fun _ => rfl
  | stored | commanded | sent | streamed => simp
  | sampled k hr | generated k hr =>
    exact .inr ⟨rfl, ⟨k, hr⟩, fun a ha => readByte_writeEntry_ne _ ha _⟩
  | wasReset d => exact absurd rfl (hreset d)

theorem Moved.period (h : Moved s e t) (hreset : ∀ d, e ≠ .reset d) :
    t.period = s.period ∨ (e = .sequencer ∧ (∃ k, s.run = .gen k) ∧ t.period = s.plat) ∨
      ((∃ k : Kind, e = .hostWrite 0x004 .word (encode k.command)) ∧ s.Ready ∧ t.period = 0) := by
  cases h with
  | answered | dropped | held | consumed | sampled => exact .inl rfl
  | stored | sent | streamed => simp
  | illegal w hw => exact .inl (by simp [isGenWord_of_illegal hw])
  | commanded i hb he =>
    by_cases hi : ∃ k : Kind, i = k.command
    · obtain ⟨k, rfl⟩ := hi
      have hk : k.command ≠ .clrerr := by cases k <;> decide
      exact .inr (.inr ⟨⟨k, rfl⟩, ⟨hb, he.resolve_right hk⟩, commandEffect_command_period k _⟩)
    · exact .inl (commandEffect_period (not_exists.1 hi) _)
  | generated k hr => exact .inr (.inl ⟨rfl, ⟨k, hr⟩, rfl⟩)
  | wasReset d => exact absurd rfl (hreset d)

theorem Moved.nsamp (h : Moved s e t) (hreset : ∀ d, e ≠ .reset d) :
    t.nsamp = s.nsamp ∨ (e = .hostWrite 0x004 .word 0x00000020 ∧ s.Ready) := by
  cases h with
  | answered | dropped | illegal | held | consumed | sampled | generated => exact .inl rfl
  | stored | sent | streamed => simp
  | commanded i hb he =>
    by_cases hi : i = .pack
    · subst hi
      exact .inr ⟨rfl, hb, he.resolve_right (by decide)⟩
    · exact .inl (commandEffect_nsamp hi _)
  | wasReset d => exact absurd rfl (hreset d)

/-- Settles O52: the three fields through every move but a reset. -/
theorem cycleIsWrittenByGenerationsOnly : Obligations.CycleIsWrittenByGenerationsOnly := by
  intro s t h hreset
  have hm := step_moved h
  exact ⟨hm.cyc hreset, hm.period hreset, hm.nsamp hreset⟩

end Sys2Proof.Machine
end

section
/-! What the host and the consumer observe: the registers' read values (R21 to R38), the interrupt output
(R42), the stream's ports (R24) and what a reset leaves of them (R44). -/

namespace Sys2Proof.Machine

/-! ### Read values -/

/-- The five flags of `STATUS` at their places (R33), the rest 0. -/
theorem statusWord_bits (s : State) :
    s.statusWord.getLsbD 0 = s.busy ∧ s.statusWord.getLsbD 1 = s.done ∧
    s.statusWord.getLsbD 2 = s.err ∧ s.statusWord.getLsbD 3 = s.ovr ∧
    s.statusWord.getLsbD 4 = s.cycv := by
  simp only [State.statusWord, BitVec.getLsbD_setWidth, BitVec.getLsbD_append, BitVec.getLsbD_ofBool]
  simp

theorem cycv_iff (s : State) : s.cycv = true ↔ s.period ≠ 0 := by simp [State.cycv]

/-- Settles O10: `STATUS` by its bits, the three narrow registers zero-extended, the rest stored whole. -/
theorem registerReadValues : Obligations.RegisterReadValues := by
  intro s
  obtain ⟨hbusy, hdone, herr, hovr, hcycv⟩ := statusWord_bits s
  refine ⟨rfl, ?busy, hdone, herr, hovr, ?cycv, ?upper, ?errcode, ?ctrl, ?duty,
    rfl, rfl, rfl, rfl, rfl, rfl, rfl⟩
  case busy => exact hbusy ▸ State.busy_true_iff
  case cycv => exact hcycv ▸ cycv_iff s
  case upper => exact (BitVec.toNat_setWidth_of_le (by decide)).trans_lt (BitVec.isLt _)
  case errcode => exact BitVec.toNat_setWidth_of_le (by decide)
  case ctrl => exact BitVec.toNat_setWidth_of_le (by decide)
  case duty => exact BitVec.toNat_setWidth_of_le (by decide)

/-! ### Outputs -/

/-- Settles O12: the formula of R42, and clause 4 of R46 for the exclusion. -/
theorem interruptOutputLevel : Obligations.InterruptOutputLevel := by
  refine fun s => ⟨by simp [State.irq, State.ieDone, State.ieErr], fun h ⟨hd, he⟩ => ?_⟩
  rw [(h.doneQuiet hd).2] at he
  cases he

/-- Settles O26: the offered byte in each byte phase. -/
theorem streamPortsOfferTheNextByte : Obligations.StreamPortsOfferTheNextByte :=
  fun _ => ⟨decide_eq_true_iff, offeredByte_low, offeredByte_high⟩

/-! ### Reset -/

/-- With `PERIOD` 0 every entry of the window is masked (R66). -/
theorem window_of_period_zero {s : State} (h : s.period = 0) (i : Nat) : s.window i = 0 := by
  simp [State.window, h]

/-- Every non-zero word is the draw counted one below it. -/
theorem exists_prngOfDraw {w : Word} (h : w ≠ 0) : ∃ d, prngOfDraw d = w := by
  have hw := w.isLt
  have h0 : w.toNat ≠ 0 := by bv_omega
  refine ⟨⟨w.toNat - 1, by omega⟩, BitVec.eq_of_toNat_eq ?_⟩
  rw [prngOfDraw_toNat]
  exact Nat.sub_add_cancel (Nat.pos_of_ne_zero h0)

/-- Settles O43: the fields of the state a reset leaves, read through the registers. -/
theorem resetLeavesTheResetValues : Obligations.ResetLeavesTheResetValues := by
  refine ⟨fun s d => ⟨s.resetBlock d, rfl, fun r => ?_, rfl, rfl, rfl, rfl, rfl, rfl, rfl,
    prngOfDraw_ne_zero d, rfl⟩, fun w => exists_prngOfDraw⟩
  cases r with
  | cycwin i => exact window_of_period_zero rfl i
  | status => simp [State.readReg, State.statusWord, State.busy, State.cycv]
  | id | cmd | errcode | errcmd | ctrl | freq | amp | dur | duty | seed | period | nsamp => rfl

end Sys2Proof.Machine
end

section
/-! The register bus (R61 to R66): which accesses are legal, what a legal read and a legal write answer and
change, and the cycle window. -/

namespace Sys2Proof.Machine

variable {s t : State}

/-! ### The address map -/

/-- A register is mapped at an offset when it stands there and, for a window entry, the RAM has it. -/
theorem regAt_eq_some_iff {d a : Nat} {r : Reg} :
    regAt d a = some r ↔ regAddr r = a ∧ ∀ i, r = .cycwin i → i < d := by
  refine ⟨regAddr_of_regAt, ?_⟩
  rintro ⟨rfl, h⟩
  exact regAt_regAddr h

theorem accessed_regAddr {d : Nat} {r : Reg} (h : ∀ i, r = .cycwin i → i < d) :
    accessed d (regAddr r) .word = some r :=
  regAt_regAddr h

/-- A mapped register is a named one or a window entry below the depth. -/
theorem mapped_iff {d : Nat} {r : Reg} :
    (∀ i, r = .cycwin i → i < d) ↔ r ∈ namedRegs ∨ ∃ i < d, r = .cycwin i := by
  cases r with
  | cycwin j => simp [namedRegs]
  | id | cmd | status | errcode | errcmd | ctrl | freq | amp | dur | duty | seed | period | nsamp =>
    simp [namedRegs]

/-- R62 and R63: the legal transactions by size and address alone. -/
theorem exists_accessed_iff {d a : Nat} {z : AccessSize} :
    (∃ r, accessed d a z = some r) ↔
      z = .word ∧ a % 4 = 0 ∧ (a ∈ namedRegs.map regAddr ∨ (0x1000 ≤ a ∧ a < 0x1000 + 4 * d)) := by
  simp only [accessed_eq_some, regAt_eq_some_iff, mapped_iff]
  constructor
  · rintro ⟨r, rfl, rfl, hr | ⟨i, hi, rfl⟩⟩
    · have hall : ∀ q ∈ namedRegs, regAddr q % 4 = 0 := by decide
      exact ⟨rfl, hall r hr, .inl (List.mem_map_of_mem hr)⟩
    · refine ⟨rfl, ?_, .inr ?_⟩ <;> simp only [regAddr] <;> omega
  · rintro ⟨rfl, h4, h | ⟨hlo, hhi⟩⟩
    · obtain ⟨r, hr, rfl⟩ := List.mem_map.1 h
      exact ⟨r, rfl, rfl, .inl hr⟩
    · refine ⟨.cycwin ((a - 0x1000) / 4), rfl, ?_, .inr ⟨_, ?_, rfl⟩⟩
      · simp only [regAddr]; omega
      · omega

/-- Settles O8: the table of R61 row by row, and the window by the map's inverse. -/
theorem registersStandAtTheirOffsets : Obligations.RegistersStandAtTheirOffsets := by
  refine fun d => ⟨fun p hp => ?named, fun i hi => ⟨rfl, ?window⟩⟩
  case named => fin_cases hp <;> exact ⟨rfl, rfl⟩
  case window => exact accessed_regAddr (r := .cycwin i) (by simpa using hi)

/-! ### Reads -/

theorem takeEvent_hostRead {a : Nat} {z : AccessSize} {r : Reg}
    (h : accessed s.cfg.cycleDepth a z = some r) :
    takeEvent (.hostRead a z) s = .next (s.answer (.read .okay (s.readReg r))) := by
  simp only [takeEvent, busRead, h]

theorem takeEvent_hostRead_illegal {a : Nat} {z : AccessSize}
    (h : accessed s.cfg.cycleDepth a z = none) :
    takeEvent (.hostRead a z) s = .next (s.answer (.read .err 0)) := by
  simp only [takeEvent, busRead, h]

/-- No register shows the answer of the bus. -/
@[simp] theorem State.readReg_answer (s : State) (x : BusReply) (r : Reg) :
    (s.answer x).readReg r = s.readReg r := by
  cases r <;> rfl

/-- Settles O9: a read leaves its answer only, which the same read then gives again. -/
theorem readsAreSnapshotsWithoutEffect : Obligations.ReadsAreSnapshotsWithoutEffect := by
  refine fun s r h => ⟨takeEvent_hostRead (accessed_regAddr h), ?again, rfl⟩
  case again =>
    have hread := takeEvent_hostRead (s := s.answer (.read .okay (s.readReg r))) (accessed_regAddr h)
    rwa [State.readReg_answer] at hread

/-! ### Writes -/

theorem takeEvent_hostWrite_illegal {a : Nat} {z : AccessSize}
    (h : accessed s.cfg.cycleDepth a z = none) (v : Word) :
    takeEvent (.hostWrite a z v) s = .next (s.answer (.write .err)) := by
  simp only [takeEvent, busWrite, h]

theorem takeEvent_hostWrite_cmd {a : Nat} {z : AccessSize}
    (h : accessed s.cfg.cycleDepth a z = some .cmd) (v : Word) :
    takeEvent (.hostWrite a z v) s = issue v (s.answer (.write .okay)) := by
  simp only [takeEvent, busWrite, h]

theorem takeEvent_hostWrite_reg {a : Nat} {z : AccessSize} {r : Reg}
    (h : accessed s.cfg.cycleDepth a z = some r) (hr : r ≠ .cmd) (v : Word) :
    takeEvent (.hostWrite a z v) s = .next ((s.answer (.write .okay)).writeReg r v) := by
  simp only [takeEvent, busWrite, h]

theorem State.writeReg_busy (h : s.busy = true) (r : Reg) (v : Word) : s.writeReg r v = s.dropWrite := by
  simp only [State.writeReg, h, if_true]

theorem State.writeReg_idle (h : s.busy = false) (r : Reg) (v : Word) :
    s.writeReg r v = s.storeReg r v := by
  simp only [State.writeReg, h, Bool.false_eq_true, if_false]

/-- A write to `CMD` while busy is dropped whatever its word decodes to (R65, R196). -/
theorem issue_busy (h : s.busy = true) (w : Word) : issue w s = .next s.dropWrite := by
  unfold issue
  split
  · exact exec_busy h _
  · rw [acceptCommand_busy h]

/-- The issue of a word answers a next state and leaves the answer of the bus alone. -/
theorem issue_next (w : Word) (s : State) : ∃ t, issue w s = .next t ∧ t.reply = s.reply := by
  unfold issue
  split
  · next i _ =>
    obtain ⟨-, -, -, -, ⟨-, -, -, hreply⟩, -⟩ := commandFrame i s _ (exec_eq i s)
    exact ⟨_, exec_eq i s, hreply⟩
  · refine ⟨_, rfl, ?_⟩
    rcases acceptCommand_cases w (fun t => t.raiseError .illegalCommand w) s with ⟨-, h⟩ | ⟨-, -, h⟩ <;>
      simp [h]

@[simp] theorem State.storeReg_reply (s : State) (r : Reg) (v : Word) :
    (s.storeReg r v).reply = s.reply := by
  cases r <;> rfl

@[simp] theorem State.writeReg_reply (s : State) (r : Reg) (v : Word) :
    (s.writeReg r v).reply = s.reply := by
  unfold State.writeReg
  split <;> simp

/-- The first line of R65: while busy a write to any mapped register is dropped. -/
theorem takeEvent_hostWrite_busy {a : Nat} {z : AccessSize} {r : Reg}
    (h : accessed s.cfg.cycleDepth a z = some r) (hb : s.busy = true) (v : Word) :
    takeEvent (.hostWrite a z v) s = .next (s.answer (.write .okay)).dropWrite := by
  have hb' : (s.answer (.write .okay)).busy = true := hb
  by_cases hr : r = .cmd
  · subst hr
    rw [takeEvent_hostWrite_cmd h, issue_busy hb']
  · rw [takeEvent_hostWrite_reg h hr, State.writeReg_busy hb']

/-- While nothing runs a register other than `CMD` is stored to. -/
theorem takeEvent_hostWrite_idle {a : Nat} {z : AccessSize} {r : Reg}
    (h : accessed s.cfg.cycleDepth a z = some r) (hr : r ≠ .cmd) (hb : s.busy = false) (v : Word) :
    takeEvent (.hostWrite a z v) s = .next ((s.answer (.write .okay)).storeReg r v) := by
  have hb' : (s.answer (.write .okay)).busy = false := hb
  rw [takeEvent_hostWrite_reg h hr, State.writeReg_idle hb']

/-- A legal write answers `OKAY`, whatever becomes of it. -/
theorem takeEvent_hostWrite_okay {a : Nat} {z : AccessSize} {r : Reg}
    (h : accessed s.cfg.cycleDepth a z = some r) (v : Word) :
    ∃ t, takeEvent (.hostWrite a z v) s = .next t ∧ t.reply = some (.write .okay) := by
  by_cases hr : r = .cmd
  · subst hr
    rw [takeEvent_hostWrite_cmd h]
    exact issue_next v (s.answer (.write .okay))
  · exact ⟨_, takeEvent_hostWrite_reg h hr v, State.writeReg_reply _ r v⟩

/-- Settles O7: legality by size and address, and the answer of a legal and of an illegal access. -/
theorem legalAccessesAndOthers : Obligations.LegalAccessesAndOthers := by
  refine fun s a z v => ⟨exists_accessed_iff, ?legal, fun h => ?illegal⟩
  case legal =>
    rintro ⟨r, h⟩
    exact ⟨⟨_, takeEvent_hostRead h⟩, takeEvent_hostWrite_okay h v⟩
  case illegal => exact ⟨takeEvent_hostRead_illegal h, takeEvent_hostWrite_illegal h v⟩

/-- Keeping the low `n` bits of a word is masking the rest (R43). -/
theorem setWidth_extractLsb'_zero (v : Word) (n : Nat) :
    (v.extractLsb' 0 n).setWidth 32 = v &&& BitVec.ofNat 32 (2 ^ n - 1) := by
  apply BitVec.eq_of_getLsbD_eq
  intro i hi
  simp only [BitVec.getLsbD_setWidth, BitVec.getLsbD_extractLsb', BitVec.getLsbD_and,
    BitVec.getLsbD_ofNat, Nat.testBit_two_pow_sub_one, Nat.zero_add]
  simp [hi, Bool.and_comm]

/-- Settles O6: dropped while busy; otherwise issued or stored, register by register, the two narrow
registers masked. -/
theorem legalWriteRule : Obligations.LegalWriteRule := by
  refine ⟨fun s r v h => ?write, fun _ v =>
    ⟨setWidth_extractLsb'_zero v 2, setWidth_extractLsb'_zero v 8⟩⟩
  case write =>
    have ha : accessed s.cfg.cycleDepth (regAddr r) .word = some r := accessed_regAddr h
    split_ifs with hb
    · exact takeEvent_hostWrite_busy ha hb v
    · have hb : s.busy = false := by simpa using hb
      cases r with
      | cmd => exact takeEvent_hostWrite_cmd ha v
      | id | status | errcode | errcmd | ctrl | freq | amp | dur | duty | seed | period | nsamp
      | cycwin i => exact takeEvent_hostWrite_idle ha (by simp) hb v

/-! ### The cycle window -/

theorem window_valid {i : Nat} (h : i < s.period.toNat) :
    (s.window i).toInt = (readEntry s.cyc i).toInt := by
  rw [State.window, if_pos h, BitVec.toInt_signExtend_of_le (by decide)]

theorem window_masked {i : Nat} (h : s.period.toNat ≤ i) : s.window i = 0 := by
  rw [State.window, if_neg (by omega)]

/-- The window shows the cycle RAM and the period only. -/
theorem window_congr (hc : ∀ a, readByte t.cyc a = readByte s.cyc a) (hp : t.period = s.period)
    (i : Nat) : t.window i = s.window i := by
  simp only [State.window, readEntry, hc, hp]

/-- While a stream runs no generation writes the RAM or the period and no command is accepted. -/
theorem Moved.window_of_pack {e : Event} (h : Moved s e t) (hrun : s.run = .pack)
    (hreset : ∀ d, e ≠ .reset d) (i : Nat) : t.window i = s.window i := by
  have hgen : ¬ ∃ k, s.run = .gen k := by simp [hrun]
  have hready : ¬ s.Ready := fun hr => by
    have := State.busy_false_iff.1 hr.1
    simp [hrun] at this
  have hcyc := (h.cyc hreset).resolve_right fun ⟨_, hg, _⟩ => hgen hg
  rcases h.period hreset with hp | ⟨_, hg, _⟩ | ⟨_, hr, _⟩
  · exact window_congr hcyc hp i
  · exact absurd hg hgen
  · exact absurd hr hready

/-- Settles O11: the window's value, its stability during a stream, and the writes it ignores. -/
theorem cycleWindowMasksInvalidEntries : Obligations.CycleWindowMasksInvalidEntries := by
  intro s i hi
  have ha : accessed s.cfg.cycleDepth (0x1000 + 4 * i) .word = some (.cycwin i) :=
    accessed_regAddr (r := .cycwin i) (by simpa using hi)
  refine ⟨⟨s.window i, takeEvent_hostRead ha, window_valid, window_masked, fun k h hk => ?generating⟩,
    fun e t hrun hreset h => (takeEvent_moved h).window_of_pack hrun hreset i, fun v => ?write⟩
  case generating =>
    obtain ⟨hper, -⟩ := h.generating k hk
    exact window_of_period_zero hper i
  case write =>
    split_ifs with hb
    · exact takeEvent_hostWrite_busy ha hb v
    · exact takeEvent_hostWrite_idle ha (by simp) (by simpa using hb) v

/-! ### Dropped commands -/

/-- Settles O20: the two ways a command is dropped. -/
theorem commandsAreDroppedWhenBusyOrFaulted : Obligations.CommandsAreDroppedWhenBusyOrFaulted :=
  fun i _ => ⟨fun hb => exec_busy hb i, fun hb he hi => exec_blocked hb he hi⟩

/-! ### The sequencer between transactions -/

theorem sequencerTurn_idle (h : s.run = .idle) : sequencerTurn s = .next s := by
  simp only [sequencerTurn, h]

theorem sequencerTurn_stalled (h : s.run = .pack) (hr : s.outReady = false) :
    sequencerTurn s = .next s := by
  simp only [sequencerTurn, h, hr, Bool.false_eq_true, if_false]

/-- A state one turn leaves as it is, any number of turns leaves as it is. -/
theorem sequencerTurns_of_fixed (h : sequencerTurn s = .next s) (n : Nat) :
    sequencerTurns n s = .next s := by
  induction n with
  | zero => rfl
  | succ n ih => rw [sequencerTurns_succ n h, ih]

/-- A byte step on a held cycle appends the offered byte, marked or not. -/
theorem packStep_out (hp : s.period ≠ 0) (hi : s.tileIndex < s.cfg.cycleDepth) :
    ∃ t, packStep s = .next t ∧ t.out = s.out ++ [s.offeredByte] := by
  cases hl : s.offeredByte.last with
  | true => exact ⟨_, packStep_last hp hi hl, s.handOver_out⟩
  | false => exact ⟨_, packStep_more hp hi hl, s.handOver_out⟩

/-- Settles O28: idle and stalled states are fixed by a turn; a ready consumer takes the offered byte. -/
theorem idleAndStalledSequencerHolds : Obligations.IdleAndStalledSequencerHolds := by
  refine ⟨fun s n h => sequencerTurns_of_fixed (sequencerTurn_idle h) n, fun s n h hr =>
    ⟨sequencerTurns_of_fixed (sequencerTurn_stalled h hr) n, State.busy_true_iff.2 (by simp [h])⟩, ?ready⟩
  case ready =>
    intro s hinv hrun
    obtain ⟨hper, -⟩ := hinv.streaming hrun
    have hp : s.period ≠ 0 := by bv_omega
    have hi : s.tileIndex < s.cfg.cycleDepth := (tileIndex_lt hp).trans_le hinv.periodBound
    obtain ⟨t, ht, hout⟩ := packStep_out (s := { s with outReady := true }) hp hi
    exact ⟨t, _, rfl, (sequencerTurn_pack (s := { s with outReady := true }) hrun rfl).trans ht, hout⟩

end Sys2Proof.Machine
end

section
/-! The opcode map (R80 to R82, R85): the fields of a word as numbers, the one word of each command, and
the reason each other word is refused for. -/

namespace Sys2Proof

/-! ### The words of the commands -/

theorem fieldsOf_encode (i : Instr) : fieldsOf (encode i) = i.cmdw := by
  rw [encode_eq_wordOf, fieldsOf_wordOf]

theorem decode_eq_ok_iff {w : Word} {i : Instr} : decode w = .ok i ↔ w = encode i :=
  ⟨eq_encode_of_decode, fun h => h ▸ decode_encode i⟩

/-- Settles O1: the columns of R81 are those of `encode` and `Instr.cmdw`, and `decode` inverts `encode`. -/
theorem wordSelectsCommandExactly : Obligations.WordSelectsCommandExactly := by
  refine ⟨?words, ?fields, fun i _ => decode_encode i, fun _ _ => decode_eq_ok_iff⟩
  case words => exact ⟨rfl, rfl, rfl, rfl, rfl, rfl, rfl, rfl, rfl⟩
  case fields => simp only [fieldsOf_encode, Instr.cmdw, and_self]

/-! ### The fields of a word as numbers -/

theorem fieldsOf_rsv_eq_zero_iff (w : Word) : (fieldsOf w).rsv = 0 ↔ w.toNat / 256 = 0 := by
  simp only [fieldsOf, ← BitVec.toNat_inj, BitVec.extractLsb'_toNat, Nat.shiftRight_eq_div_pow,
    BitVec.ofNat_eq_ofNat, BitVec.toNat_ofNat]
  omega

theorem fieldsOf_major_toNat (w : Word) : (fieldsOf w).major.toNat = w.toNat / 16 % 16 := by
  simp [fieldsOf, Nat.shiftRight_eq_div_pow]

theorem fieldsOf_minor_toNat (w : Word) : (fieldsOf w).minor.toNat = w.toNat % 16 := by
  simp [fieldsOf]

/-! ### The two stages of decoding -/

/-- `RSV` is checked first, as V-DEC labels `0xFFFFFFFF`. -/
theorem decode_of_reserved_ne_zero {w : Word} (h : w.toNat / 256 ≠ 0) :
    decode w = .error .reservedNotZero :=
  if_neg (mt (fieldsOf_rsv_eq_zero_iff w).1 h)

theorem decode_of_reserved_zero {w : Word} (h : w.toNat / 256 = 0) :
    decode w = decodeFields (w.toNat / 16) (w.toNat % 16) := by
  rw [decode, if_pos ((fieldsOf_rsv_eq_zero_iff w).2 h), fieldsOf_major_toNat, fieldsOf_minor_toNat,
    Nat.mod_eq_of_lt (by omega : w.toNat / 16 < 16)]

/-! ### The opcode map's refusals -/

theorem decodeFields_kind {b : Nat} (hb : 5 ≤ b) : decodeFields 1 b = .error .kindOutOfRange := by
  obtain ⟨n, rfl⟩ := Nat.exists_eq_add_of_le' hb
  rfl

theorem decodeFields_minor {a b : Nat} (ha : a = 0 ∨ a = 2 ∨ a = 3 ∨ a = 4) (hb : b ≠ 0) :
    decodeFields a b = .error .minorNotZero := by
  obtain ⟨n, rfl⟩ := Nat.exists_eq_succ_of_ne_zero hb
  rcases ha with rfl | rfl | rfl | rfl <;> rfl

theorem decodeFields_major {a : Nat} (ha : 5 ≤ a) (b : Nat) :
    decodeFields a b = .error .majorOutOfRange := by
  obtain ⟨n, rfl⟩ := Nat.exists_eq_add_of_le' ha
  rfl

/-- What the opcode map refuses, and why: it never speaks of `RSV`. -/
theorem decodeFields_error_cases {a b : Nat} {e : Illegal} (h : decodeFields a b = .error e) :
    (e = .kindOutOfRange ∧ a = 1 ∧ 5 ≤ b) ∨
    (e = .minorNotZero ∧ (a = 0 ∨ a = 2 ∨ a = 3 ∨ a = 4) ∧ b ≠ 0) ∨
    (e = .majorOutOfRange ∧ 5 ≤ a) := by
  by_cases ha : 5 ≤ a
  · cases (decodeFields_major ha b).symm.trans h
    exact .inr (.inr ⟨rfl, ha⟩)
  by_cases hk : a = 1
  · subst hk
    by_cases hb : 5 ≤ b
    · cases (decodeFields_kind hb).symm.trans h
      exact .inl ⟨rfl, rfl, hb⟩
    · interval_cases b <;> cases h
  have hm : a = 0 ∨ a = 2 ∨ a = 3 ∨ a = 4 := by omega
  by_cases hb : b = 0
  · rcases hm with rfl | rfl | rfl | rfl <;> subst hb <;> cases h
  · cases (decodeFields_minor hm hb).symm.trans h
    exact .inr (.inl ⟨rfl, hm, hb⟩)

/-- Settles O2: a word with `RSV` not 0 has the one reason, and the opcode map refuses the others. -/
theorem illegalWordsAreRefusedByReason : Obligations.IllegalWordsAreRefusedByReason := by
  intro w
  by_cases h : w.toNat / 256 = 0
  case neg =>
    rw [decode_of_reserved_ne_zero h]
    simp only [Except.error.injEq, reduceCtorEq, true_iff, false_iff]
    omega
  case pos =>
    rw [decode_of_reserved_zero h]
    refine ⟨iff_of_false (fun he => ?reserved) (by simpa using h),
      ⟨fun he => ⟨h, ?major⟩, fun he => decodeFields_major he.2 _⟩,
      ⟨fun he => ?kind, fun ⟨ha, hb⟩ => ha ▸ decodeFields_kind hb⟩,
      ⟨fun he => ?minor, fun he => decodeFields_minor he.1 he.2⟩⟩
    all_goals simpa using decodeFields_error_cases he

/-- Settles O3: six words are the encodings of their commands; the fields of the others are refused. -/
theorem listedWordsDecode : Obligations.ListedWordsDecode := by
  refine ⟨decode_encode .nop, decode_encode .genSine, decode_encode .genSaw, decode_encode .genNoise,
    decode_encode .pack, decode_encode .clrerr, ?kind, ?minor, ?major, ?reserved⟩
  case kind => exact (decode_of_reserved_zero rfl).trans (decodeFields_kind (b := 5) le_rfl)
  case minor =>
    exact (decode_of_reserved_zero rfl).trans (decodeFields_minor (a := 2) (by simp) (by decide))
  case major => exact (decode_of_reserved_zero rfl).trans (decodeFields_major (a := 5) le_rfl 0)
  case reserved => exact decode_of_reserved_ne_zero (by decide)

end Sys2Proof
end

section
/-! Host programs (R87 to R90): a program's moves are those of its lines, in order. -/

namespace Sys2Proof.Machine

/-! ### The moves of a line -/

@[simp] theorem lineEvents_wr (r : Reg) (v : Word) :
    lineEvents (.wr r v) = [.hostWrite (regAddr r) .word v] := rfl

@[simp] theorem lineEvents_rd (r : Reg) : lineEvents (.rd r) = [.hostRead (regAddr r) .word] := rfl

@[simp] theorem lineEvents_command (i : Instr) :
    lineEvents (.command i) = [.hostWrite 0x004 .word (encode i)] := rfl

@[simp] theorem lineEvents_reset (d : Fin 4294967295) : lineEvents (.reset d) = [.reset d] := rfl

@[simp] theorem lineEvents_wait_nil : lineEvents (.wait []) = [] := rfl

theorem lineEvents_wait_cons (n : Nat) (g : List Nat) :
    lineEvents (.wait (n :: g)) =
      List.replicate n .sequencer ++ .hostRead 0x008 .word :: lineEvents (.wait g) := by
  simp [lineEvents, regAddr]

/-! ### The moves of a program -/

@[simp] theorem programEvents_nil : programEvents [] = [] := rfl

@[simp] theorem programEvents_cons (l : Line) (ls : List Line) :
    programEvents (l :: ls) = lineEvents l ++ programEvents ls := rfl

/-- Settles O42: a pseudo-instruction is a list of lines, whose moves are appended in order. -/
theorem notationStandsForItsTransactions : Obligations.NotationStandsForItsTransactions := by
  refine ⟨fun v r i d n g => ?lines, fun v => ?setters, fun v g => ?reseed, fun k f a d g h => ?tone,
    fun f a c d g h => ?tonep⟩
  case lines => simp [lineEvents_wait_cons]
  case setters => simp [setf, seta, setd, regAddr]
  case reseed => simp [reseed, regAddr, encode]
  case tone => simp [tone, setf, seta, setd, regAddr, encode]
  case tonep => simp [tonep, setf, seta, setd, regAddr, encode]

end Sys2Proof.Machine
end

section
/-! The issue of a generation (R101, R102), the step that writes a command (R100) and that no step of a
state meeting the invariant stops (R104, R158). -/

namespace Sys2Proof.Machine

variable {s t : State} {k : Kind}

/-! ### Operands that pass the checks of a `GEN_*` -/

/-- The three checks of R101 in the order of R198, for the command of kind `k`. -/
structure State.Passes (s : State) (k : Kind) : Prop where
  frequency : freqLegal s.freqPattern = true
  fits : periodOf s.freqPattern ≤ s.cfg.cycleDepth
  duty : k = .pulse → dutyLegal s.dutyPercent = true

/-- The checks as the bounds of R101 on the register values. -/
theorem State.Passes.of_bounds (h1 : 1 ≤ s.freq.toNat) (h2 : s.freq.toNat < 44100 * 65536)
    (hp : 44100 * 65536 / s.freq.toNat ≤ s.cfg.cycleDepth)
    (hd : k = .pulse → 1 ≤ s.duty.toNat ∧ s.duty.toNat ≤ 100) : s.Passes k where
  frequency := freqLegal_iff.2 ⟨h1, h2⟩
  fits := hp
  duty hk := dutyLegal_iff.2 (hd hk)

/-- An accepted `GEN_*` whose operands pass starts. -/
theorem exec_command_starts (hr : s.Ready) (hp : s.Passes k) :
    exec k.command s = .next (s.accept.startGen k (BitVec.ofNat 32 (periodOf s.freqPattern))) := by
  rw [exec_accepted hr.1 (.inl hr.2), commandEffect_gen]
  exact congrArg _ (genIssue_starts (s := s.accept) hp.frequency hp.fits hp.duty _)

theorem Config.depth_lt {c : Config} (h : c.wellFormed = true) : c.cycleDepth < 4294967296 := by
  simp only [Config.wellFormed, Config.depthOk, Bool.and_eq_true, decide_eq_true_eq] at h
  omega

/-- A period that fits an admissible cycle RAM fits its register (R112). -/
theorem periodPattern_toNat {c : Config} (h : c.wellFormed = true) {p : Nat} (hp : p ≤ c.cycleDepth) :
    (BitVec.ofNat 32 p).toNat = p := by
  have := Config.depth_lt h
  rw [BitVec.toNat_ofNat, Nat.mod_eq_of_lt (by omega)]

/-- Settles O16: the five rows of the list are the commands of the five kinds. -/
theorem generationStarts : Obligations.GenerationStarts := by
  intro i k s hik hr h1 h2 hp hd
  have hi : i = k.command := by
    simp only [List.mem_cons, Prod.mk.injEq, List.not_mem_nil, or_false] at hik
    rcases hik with ⟨rfl, rfl⟩ | ⟨rfl, rfl⟩ | ⟨rfl, rfl⟩ | ⟨rfl, rfl⟩ | ⟨rfl, rfl⟩ <;> rfl
  subst hi
  exact ⟨_, exec_command_starts hr (.of_bounds h1 h2 hp hd), rfl, rfl, fun hc => periodPattern_toNat hc hp⟩

/-! ### The amplitude at issue -/

/-- The state with another `AMP` pattern (R28). -/
def State.withAmp (s : State) (b : Word) : State := { s with amp := b }

/-- No branch of the issue looks at `AMP`. -/
theorem genIssue_withAmp (k : Kind) (w : Word) (s : State) (b : Word) :
    genIssue k w (s.withAmp b) = (genIssue k w s).withAmp b := by
  simp only [genIssue, apply_ite (State.withAmp · b)]
  rfl

/-- Nor does acceptance. -/
theorem acceptCommand_withAmp {act : State → State}
    (hact : ∀ (s : State) b, act (s.withAmp b) = (act s).withAmp b) (w : Word) (s : State) (b : Word) :
    acceptCommand w act (s.withAmp b) = (acceptCommand w act s).withAmp b := by
  simp only [acceptCommand, apply_ite (State.withAmp · b), ← hact]
  rfl

theorem exec_command_withAmp (h : exec k.command s = .next t) (b : Word) :
    exec k.command (s.withAmp b) = .next (t.withAmp b) := by
  rw [exec_eq, commandEffect_gen] at h ⊢
  cases h
  rw [acceptCommand_withAmp (genIssue_withAmp k _)]

/-! ### A step that writes a command -/

/-- Settles O4: the write reaches `CMD`, and a command's word runs its command. -/
theorem stepRunsTheDecodedCommand : Obligations.StepRunsTheDecodedCommand := by
  intro s w i rest hs hd _
  have hcmd : accessed s.cfg.cycleDepth 0x004 .word = some .cmd := rfl
  have hwrite := takeEvent_hostWrite_cmd (s := { s with schedule := rest }) hcmd w
  simp only [step, hs, hwrite, issue, hd]
  rfl

/-! ### No step stops -/

theorem busWrite_next (a : Nat) (z : AccessSize) (v : Word) (s : State) :
    ∃ t, takeEvent (.hostWrite a z v) s = .next t := by
  cases h : accessed s.cfg.cycleDepth a z with
  | none => exact ⟨_, takeEvent_hostWrite_illegal h v⟩
  | some r =>
    obtain ⟨t, ht, -⟩ := takeEvent_hostWrite_okay h v
    exact ⟨t, ht⟩

theorem genStep_next (hi : s.gidx.toNat < s.cfg.cycleDepth) : ∃ t, genStep k s = .next t := by
  by_cases hl : s.gidx + 1 = s.plat
  · exact ⟨_, genStep_last hi hl⟩
  · exact ⟨_, genStep_more hi hl⟩

/-- Clauses 6 and 7 of R46 keep the index of a sample and of a byte inside the cycle RAM. -/
theorem State.Inv.sequencerTurn_next (h : s.Inv) : ∃ t, sequencerTurn s = .next t := by
  cases hrun : s.run with
  | idle => exact ⟨s, sequencerTurn_idle hrun⟩
  | gen k =>
    obtain ⟨-, -, hle, hlt⟩ := h.generating k hrun
    rw [sequencerTurn_gen hrun]
    exact genStep_next (hlt.trans_le hle)
  | pack =>
    cases hready : s.outReady with
    | false => exact ⟨s, sequencerTurn_stalled hrun hready⟩
    | true =>
      obtain ⟨hper, -⟩ := h.streaming hrun
      have hp : s.period ≠ 0 := by bv_omega
      obtain ⟨t, ht, -⟩ := packStep_out hp ((tileIndex_lt hp).trans_le h.periodBound)
      exact ⟨t, (sequencerTurn_pack hrun hready).trans ht⟩

/-- Settles O46: of the moves only the sequencer's can stop, and under the invariant it does not. -/
theorem invariantStatesNeverStop : Obligations.InvariantStatesNeverStop := by
  intro s h
  unfold SafeStep
  rw [step_eq]
  cases s.nextEvent with
  | hostRead a z => exact ⟨_, rfl⟩
  | hostWrite a z v => exact busWrite_next a z v s.popped
  | sequencer => exact h.popped.sequencerTurn_next
  | consumer b => exact ⟨_, rfl⟩
  | reset d => exact ⟨_, rfl⟩

end Sys2Proof.Machine
end

section
/-! The samples of the deterministic waveforms and of noise as formulas (R101 to R108, R112, R131, R132),
and the ranges they lie in (R111). -/

namespace Sys2Proof.Machine

variable {s : State} {k : Kind} {F n p : Nat} {a : Rat}

/-! ### The period -/

/-- The integer quotient is the floor of the real one, with 65536 cleared from the denominator. -/
theorem periodOf_eq_floor (F : Nat) : (periodOf F : Int) = ((44100 : Rat) / ((F : Rat) / 65536)).floor := by
  have h : (44100 : Rat) / ((F : Rat) / 65536) = ((sampleRate * one16 : Nat) : Rat) / (F : Rat) := by
    rw [div_div_eq_mul_div]
    norm_num [sampleRate, one16]
  rw [h]
  exact (Rat.floor_natCast_div_natCast _ F).symm

/-- Settles O29: the floor, and the bounds of R101. -/
theorem periodIsFloorOfRateOverFrequency : Obligations.PeriodIsFloorOfRateOverFrequency :=
  fun F h1 h2 => ⟨periodOf_eq_floor F, periodOf_bounds (freqLegal_iff.2 ⟨h1, h2⟩)⟩

/-! ### The amplitude -/

theorem ampClamped_range (amp : Word) : 0 ≤ ampClamped amp ∧ ampClamped amp ≤ 65536 := by
  unfold ampClamped clamp
  split_ifs <;> omega

theorem amplitude_eq (amp : Word) : amplitude amp =
    if amp.toInt < 0 then 0 else if 65536 < amp.toInt then 1 else (amp.toInt : Rat) / 65536 := by
  unfold amplitude ampClamped clamp
  split_ifs <;> norm_num

theorem amplitude_range (amp : Word) : 0 ≤ amplitude amp ∧ amplitude amp ≤ 1 := by
  obtain ⟨h1, h2⟩ := ampClamped_range amp
  have h1' : (0 : Rat) ≤ (ampClamped amp : Rat) := by exact_mod_cast h1
  have h2' : (ampClamped amp : Rat) ≤ 65536 := by exact_mod_cast h2
  exact ⟨div_nonneg h1' (by norm_num), (div_le_one (by norm_num)).2 h2'⟩

/-- R110 clauses 2 and 3: what the samples of a kind depend on. -/
theorem cycleSample_congr {s s' : State} (hf : s.freq = s'.freq) (ha : ampClamped s.amp = ampClamped s'.amp)
    (hc : s.cfg = s'.cfg) (hd : k = .pulse → s.duty = s'.duty) (hp : k = .noise → s.prng = s'.prng)
    (n : Nat) : cycleSample s k n = cycleSample s' k n := by
  have ha' : amplitude s.amp = amplitude s'.amp := by rw [amplitude, amplitude, ha]
  cases k with
  | sine | tri | saw => simp only [cycleSample, State.freqPattern, hf, ha', hc]
  | pulse => simp only [cycleSample, State.freqPattern, State.dutyPercent, hf, ha', hd rfl]
  | noise => simp only [cycleSample, ha', hp rfl]

/-- Settles O31: the clamp by cases, the samples through it, and the issue independent of `AMP`. -/
theorem amplitudeIsClampedSilently : Obligations.AmplitudeIsClampedSilently := by
  refine ⟨amplitude_eq, fun s b k n h => ?samples, fun k s t b h => ⟨?kept, exec_command_withAmp h b⟩⟩
  case samples =>
    exact cycleSample_congr (s := s) (s' := s.withAmp b) rfl h rfl (fun _ => rfl) (fun _ => rfl) n
  case kept =>
    obtain ⟨⟨-, hamp, -⟩, -⟩ := commandFrame _ s t h
    exact hamp

/-! ### The formulas -/

theorem phaseTurns_eq (F n : Nat) : phaseTurns F n = (F : Rat) * n / (65536 * 44100) := by
  norm_num [phaseTurns, one16, sampleRate]

theorem triSample_eq (hp : 1 ≤ p) (a : Rat) (n : Nat) :
    triSample p a n = a * (p - 2 * |2 * (n : Rat) - p| - 2) / p := by
  have hp' : (p : Rat) ≠ 0 := by positivity
  have habs : |(n : Rat) - (p : Rat) / 2| = |2 * (n : Rat) - p| / 2 := by
    rw [show (n : Rat) - (p : Rat) / 2 = (2 * n - p) / 2 by ring, abs_div, abs_two]
  rw [triSample, habs]
  field_simp

theorem sawSample_eq (F : Nat) (a : Rat) (n : Nat) :
    sawSample F a n = a * (2 * phaseTurns F n - 1) := by
  simp only [sawSample, phaseTurns]
  push_cast
  ring

theorem cycleSample_noise (s : State) (n : Nat) :
    cycleSample s .noise n = amplitude s.amp * uniformOf (xs32^[n + 1] s.prng) := by
  rw [Function.iterate_succ_apply']
  rfl

/-- Settles O32: each formula is the model's with its quotients rearranged. -/
theorem samplesFollowTheFormulas : Obligations.SamplesFollowTheFormulas := by
  refine fun s n => ⟨?sine, fun hp => triSample_eq hp _ n, ?saw, cycleSample_noise s n, fun h hh => ?upper⟩
  case sine =>
    have hx : phaseTurns s.freq.toNat n = (s.freq.toNat : Rat) / 65536 * n / 44100 := by
      rw [phaseTurns_eq]; ring
    rw [← hx]
    rfl
  case saw =>
    refine (sawSample_eq s.freq.toNat (amplitude s.amp) n).trans ?_
    rw [phaseTurns_eq]
    ring
  case upper => rw [cycleSample_noise, uniformOf_upper, hh]

/-! ### The pulse -/

/-- Being below the integer threshold is being below `dc*p/100` itself (R108). -/
theorem lt_thresholdOf_iff {dc p n : Nat} : n < thresholdOf dc p ↔ (n + 1) * 100 ≤ dc * p :=
  Nat.le_div_iff_mul_le (by norm_num)

theorem thresholdOf_le {dc : Nat} (h : dc ≤ 100) (p : Nat) : thresholdOf dc p ≤ p :=
  Nat.div_le_of_le_mul (Nat.mul_le_mul_right p h)

theorem thresholdOf_hundred (p : Nat) : thresholdOf 100 p = p := Nat.mul_div_cancel_left p (by norm_num)

/-- A sample in [-1, 1] rounds to at most full scale, so it does not wrap. -/
theorem abs_rhe_le_of_abs_le_one {q : Rat} (h : |q| ≤ 1) : |rhe (q * 32767)| ≤ 32767 := by
  obtain ⟨h1, h2⟩ := abs_le.1 h
  exact abs_le.2 ⟨le_rhe_of_le (by push_cast; linarith), rhe_le_of_le (by push_cast; linarith)⟩

theorem quant16_of_abs_le_one {q : Rat} (h : |q| ≤ 1) : quant16 q = rhe (q * 32767) := by
  obtain ⟨h1, h2⟩ := abs_le.1 (abs_rhe_le_of_abs_le_one h)
  exact quant16_eq_rhe (by omega) h2

theorem abs_amplitude_le_one (amp : Word) : |amplitude amp| ≤ 1 := by
  obtain ⟨h0, h1⟩ := amplitude_range amp
  rwa [abs_of_nonneg h0]

/-- Settles O33: the threshold without its quotient, its bounds, and the two levels, which do not wrap. -/
theorem pulseLevelsAndThreshold : Obligations.PulseLevelsAndThreshold := by
  refine fun s n => ⟨?level, fun h => thresholdOf_le h _, thresholdOf_hundred _, ?high, ?low⟩
  case level => exact if_congr lt_thresholdOf_iff rfl rfl
  case high =>
    rw [quant16_of_abs_le_one (abs_amplitude_le_one s.amp), amplitude, div_mul_eq_mul_div]
  case low => exact quant16_neg (abs_rhe_le_of_abs_le_one (abs_amplitude_le_one s.amp))

/-! ### The ranges -/

/-- A sample `a * u` with `|u| ≤ 1` stays within the amplitude. -/
theorem abs_mul_le_of_abs_le_one {u : Rat} (ha : 0 ≤ a) (hu : |u| ≤ 1) : |a * u| ≤ a := by
  rw [abs_mul, abs_of_nonneg ha]
  exact mul_le_of_le_one_right ha hu

/-- Below the period the phase stays below one turn (R105). -/
theorem phaseTurns_range (hn : n < periodOf F) : 0 ≤ phaseTurns F n ∧ phaseTurns F n < 1 := by
  have hF : 0 < F := Nat.pos_of_ne_zero fun h => by simp [h, periodOf] at hn
  have hlt : F * n < one16 * sampleRate :=
    calc F * n < F * periodOf F := Nat.mul_lt_mul_of_pos_left hn hF
      _ ≤ one16 * sampleRate := Nat.mul_div_le _ _
  have hpos : (0 : Rat) < ((one16 * sampleRate : Nat) : Rat) := by norm_num [one16, sampleRate]
  exact ⟨div_nonneg (Nat.cast_nonneg _) hpos.le, (div_lt_one hpos).2 (by exact_mod_cast hlt)⟩

theorem abs_sineSample_le (cfg : Config) (ha : 0 ≤ a) (hn : n < periodOf F) :
    |sineSample cfg F a n| ≤ a := by
  obtain ⟨h0, h1⟩ := phaseTurns_range hn
  exact abs_mul_le_of_abs_le_one ha (sinFn_abs cfg h0 h1)

theorem sawSample_range (ha : 0 ≤ a) (hn : n < periodOf F) :
    -a ≤ sawSample F a n ∧ sawSample F a n ≤ a ∧ (0 < a → sawSample F a n < a) := by
  obtain ⟨h0, h1⟩ := phaseTurns_range hn
  rw [sawSample_eq]
  exact ⟨by nlinarith, by nlinarith, fun ha => by nlinarith⟩

theorem abs_pulseSample (dc p : Nat) (ha : 0 ≤ a) (n : Nat) : |pulseSample dc p a n| = a := by
  unfold pulseSample
  split_ifs
  · exact abs_of_nonneg ha
  · rw [abs_neg, abs_of_nonneg ha]

theorem noiseSample_range (ha : 0 ≤ a) (x : Word) :
    -a ≤ noiseSample a x ∧ noiseSample a x ≤ a * (32767 / 32768) := by
  obtain ⟨h1, h2⟩ := uniformOf_range (xs32 x)
  exact ⟨by unfold noiseSample; nlinarith, mul_le_mul_of_nonneg_left h2 ha⟩

/-- Between its ends the index is at least one step from either, so the triangle stays in range. -/
theorem abs_triSample_le (ha : 0 ≤ a) (h0 : 0 < n) (hn : n < p) : |triSample p a n| ≤ a := by
  have hp' : (0 : Rat) < p := by exact_mod_cast h0.trans hn
  have h0' : (1 : Rat) ≤ n := by exact_mod_cast h0
  have hn' : (n : Rat) + 1 ≤ p := by exact_mod_cast hn
  have hdist : |2 * (n : Rat) - p| ≤ p - 2 := abs_le.2 ⟨by linarith, by linarith⟩
  rw [triSample_eq (by omega), mul_div_assoc]
  refine abs_mul_le_of_abs_le_one ha ?_
  rw [abs_div, abs_of_pos hp', div_le_one hp', abs_le]
  constructor <;> linarith [abs_nonneg (2 * (n : Rat) - p)]

theorem triSample_zero (hp : 1 ≤ p) (a : Rat) : triSample p a 0 = -(a * (p + 2) / p) := by
  rw [triSample_eq hp, Nat.cast_zero, mul_zero, zero_sub, abs_neg, Nat.abs_cast]
  ring

/-- Settles O34: each waveform's range, by its formula. -/
theorem sampleRanges : Obligations.SampleRanges := by
  intro s n _ _ hn
  have ha := (amplitude_range s.amp).1
  exact ⟨abs_sineSample_le s.cfg ha hn, sawSample_range ha hn, (abs_pulseSample _ _ ha n).le,
    noiseSample_range ha _, fun h0 => abs_triSample_le ha h0 hn, triSample_zero (Nat.zero_lt_of_lt hn) _,
    amplitude_range s.amp⟩

end Sys2Proof.Machine
end

section
/-! The sine under its contract (R109): what the datapath's function meets, that it is free otherwise, and
how far two conforming functions can bring a cycle entry apart. -/

namespace Sys2Proof.Machine

/-- Settles O39: the clauses are the type of the free value. -/
theorem sineFunctionMeetsItsContract : Obligations.SineFunctionMeetsItsContract :=
  fun cfg => ⟨sinFn_zero cfg, fun _ => sinFn_abs cfg, sinFn_near⟩

/-- For a positive bound clause 2 is unconditional in the contract. -/
theorem exists_sinFunction_iff {eps : Rat} (h : 0 < eps) (f : Rat → Rat) :
    (∃ g : SinFunction eps, g.1 = f) ↔
      f 0 = 0 ∧ (∀ x : Rat, 0 ≤ x → x < 1 → |f x| ≤ 1) ∧ SinNear eps f := by
  constructor
  · rintro ⟨⟨_, hzero, habs, hnear⟩, rfl⟩
    exact ⟨hzero, habs, hnear h⟩
  · rintro ⟨hzero, habs, hnear⟩
    exact ⟨⟨f, hzero, habs, fun _ => hnear⟩, rfl⟩

/-- Settles O40: the constant itself, its type, the reference sine, and the bound 0. -/
theorem sineContractAdmitsEveryConformingFunction :
    Obligations.SineContractAdmitsEveryConformingFunction := by
  refine ⟨fun _ _ => rfl, fun eps f h => ⟨⟨sinWitness eps⟩, exists_sinFunction_iff h f⟩,
    fun eps h => ⟨⟨sinRef, sinRef_contract h⟩, rfl⟩, fun f h => not_sinNear_zero f fun x h0 h1 => ?equal⟩
  case equal => rw [h x h0 h1, sub_self, abs_zero, Rat.cast_zero]

/-! ### Two conforming functions -/

/-- Both are within `eps` of the same real. -/
theorem SinNear.abs_sub_le {eps : Rat} {f g : Rat → Rat} (hf : SinNear eps f) (hg : SinNear eps g)
    {x : Rat} (h0 : 0 ≤ x) (h1 : x < 1) : |f x - g x| ≤ 2 * eps := by
  obtain ⟨hf1, hf2⟩ := abs_le.1 (hf x h0 h1)
  obtain ⟨hg1, hg2⟩ := abs_le.1 (hg x h0 h1)
  rw [← Rat.cast_le (K := ℝ)]
  push_cast
  exact abs_le.2 ⟨by linarith, by linarith⟩

/-- Rounding moves each of two numbers less than 1 apart by at most one half. -/
theorem abs_rhe_sub_le_one {q r : Rat} (h : |q - r| < 1) : |rhe q - rhe r| ≤ 1 := by
  obtain ⟨h1, h2⟩ := abs_lt.1 h
  obtain ⟨hq1, hq2⟩ := abs_le.1 (rhe_near q)
  obtain ⟨hr1, hr2⟩ := abs_le.1 (rhe_near r)
  have hlt : |((rhe q - rhe r : Int) : Rat)| < 2 := by
    push_cast
    exact abs_lt.2 ⟨by linarith, by linarith⟩
  have hlt' : |rhe q - rhe r| < 2 := by exact_mod_cast hlt
  omega

/-- Samples that do not wrap and differ by less than one step of the quantiser. -/
theorem abs_quant16_sub_le_one {q r : Rat} (hq : |q| ≤ 1) (hr : |r| ≤ 1) (h : |q - r| < 1 / 32767) :
    |quant16 q - quant16 r| ≤ 1 := by
  rw [quant16_of_abs_le_one hq, quant16_of_abs_le_one hr]
  refine abs_rhe_sub_le_one ?_
  rw [← sub_mul, abs_mul, abs_of_pos (by norm_num : (0 : Rat) < 32767)]
  linarith

theorem Config.sinEps_lt {c : Config} (h : c.wellFormed = true) : c.sinEps < 1 / 65536 := by
  simp only [Config.wellFormed, Config.epsOk, Bool.and_eq_true, decide_eq_true_eq] at h
  exact h.2.2

/-- Settles O41: below half a step each way two conforming sines are less than one step apart. -/
theorem conformingSinesDifferByAtMostOne : Obligations.ConformingSinesDifferByAtMostOne := by
  intro s f n hcfg hpos hf _ _ hn
  obtain ⟨ha0, ha1⟩ := amplitude_range s.amp
  obtain ⟨h0, h1⟩ := phaseTurns_range (F := s.freq.toNat) hn
  obtain ⟨-, habs, hnear⟩ := hf
  have heps := Config.sinEps_lt hcfg
  have hdiff := SinNear.abs_sub_le (sinFn_near hpos) (hnear hpos) h0 h1
  rw [← phaseTurns_eq]
  refine abs_quant16_sub_le_one ((abs_sineSample_le s.cfg ha0 hn).trans ha1)
    ((abs_mul_le_of_abs_le_one ha0 (habs _ h0 h1)).trans ha1) ?_
  show |amplitude s.amp * _ - _| < _
  rw [← mul_sub, abs_mul, abs_of_nonneg ha0]
  calc amplitude s.amp * |sinFn s.cfg (phaseTurns s.freq.toNat n) - f (phaseTurns s.freq.toNat n)|
      ≤ 2 * s.cfg.sinEps := (mul_le_of_le_one_left (abs_nonneg _) ha1).trans hdiff
    _ < 1 / 32767 := by linarith

end Sys2Proof.Machine
end

section
/-! A generation from its issue to its completion (R104, R132): the state after each of its samples, and
from it the cycle that is left (R110, R135). -/

namespace Sys2Proof.Machine

variable {s : State} {k : Kind} {j n : Nat}

/-! ### One sample -/

theorem prngAfter_eq (s : State) (k : Kind) :
    s.prngAfter k = if k = .noise then xs32 s.prng else s.prng := by
  cases k <;> rfl

/-- The stored entry is the quantised sample; this needs the canonical form of the cycle RAM. -/
theorem readEntry_storeSample_same (h : Memory.wf s.cyc = true) (k : Kind) :
    (readEntry (s.storeSample k).cyc s.gidx.toNat).toInt = quant16 (s.sample k s.gidx.toNat) := by
  rw [State.storeSample_cyc, readEntry_writeEntry_same h, quantPattern_toInt]

theorem readEntry_storeSample_ne (k : Kind) (h : j ≠ s.gidx.toNat) :
    readEntry (s.storeSample k).cyc j = readEntry s.cyc j :=
  readEntry_writeEntry_ne _ h _

/-- Settles O23: the step stores a sample, and completes exactly when the next index is `plat`. -/
theorem sampleStep : Obligations.SampleStep := by
  intro s k hrun hi
  rw [sequencerTurn_gen hrun]
  by_cases hl : s.gidx + 1 = s.plat
  · refine ⟨_, genStep_last hi hl, fun h => readEntry_storeSample_same h k,
      fun j => readEntry_storeSample_ne k, ?_⟩
    simp only [if_pos hl, ← prngAfter_eq]
    rfl
  · refine ⟨_, genStep_more hi hl, fun h => readEntry_storeSample_same h k,
      fun j => readEntry_storeSample_ne k, ?_⟩
    simp only [if_neg hl, ← prngAfter_eq, ← hrun]
    rfl

/-! ### The cycle RAM after some samples -/

/-- The cycle RAM after the first samples of a generation issued in `s`. -/
def cycleAfter (s : State) (k : Kind) : Nat → Memory
  | 0 => s.cyc
  | j + 1 => writeEntry (cycleAfter s k j) j (quantPattern (cycleSample s k j))

theorem cycleAfter_wf (h : Memory.wf s.cyc = true) (k : Kind) (j : Nat) :
    Memory.wf (cycleAfter s k j) = true := by
  induction j with
  | zero => exact h
  | succ j ih => exact writeEntry_wf ih j _

/-- Entries not reached yet are as they were. -/
theorem readEntry_cycleAfter_of_le (s : State) (k : Kind) (h : j ≤ n) :
    readEntry (cycleAfter s k j) n = readEntry s.cyc n := by
  induction j with
  | zero => rfl
  | succ j ih =>
    rw [cycleAfter, readEntry_writeEntry_ne _ (by omega)]
    exact ih (by omega)

/-- An entry once stored is kept. -/
theorem readEntry_cycleAfter_of_lt (hwf : Memory.wf s.cyc = true) (k : Kind) (h : n < j) :
    readEntry (cycleAfter s k j) n = quantPattern (cycleSample s k n) := by
  induction j with
  | zero => omega
  | succ j ih =>
    rw [cycleAfter]
    by_cases hn : n = j
    · rw [hn, readEntry_writeEntry_same (cycleAfter_wf hwf k j)]
    · rw [readEntry_writeEntry_ne _ hn]
      exact ih (by omega)

/-! ### The state after some samples -/

/-- The running state after the first `j` samples of a generation of kind `k` issued in `s`. -/
def State.afterSamples (s : State) (k : Kind) (j : Nat) : State :=
  { s with
    done := false
    period := 0
    run := .gen k
    plat := BitVec.ofNat 32 (periodOf s.freqPattern)
    gidx := BitVec.ofNat 32 j
    cyc := cycleAfter s k j
    prng := if k = .noise then xs32^[j] s.prng else s.prng }

/-- Before its first sample the generation is just issued. -/
theorem startGen_accept_eq (s : State) (k : Kind) :
    s.accept.startGen k (BitVec.ofNat 32 (periodOf s.freqPattern)) = s.afterSamples k 0 := by
  simp only [State.afterSamples, Function.iterate_zero, id_eq, ite_self]
  rfl

/-- The running state computes the sample of the cycle issued in `s`: the operands are kept, `plat` holds
the period, and noise has drawn once for each sample before (R132). -/
theorem sample_afterSamples (hp : periodOf s.freqPattern < 4294967296) (k : Kind) (j : Nat) :
    (s.afterSamples k j).sample k j = cycleSample s k j := by
  have hplat : (BitVec.ofNat 32 (periodOf s.freqPattern)).toNat = periodOf s.freqPattern := by
    rw [BitVec.toNat_ofNat, Nat.mod_eq_of_lt hp]
  cases k with
  | sine | saw | noise => rfl
  | tri => exact congrArg (triSample · _ _) hplat
  | pulse => exact congrArg (pulseSample _ · _ _) hplat

theorem gidx_afterSamples (s : State) (k : Kind) (hj : j < 4294967296) :
    (s.afterSamples k j).gidx.toNat = j := by
  simp only [State.afterSamples, BitVec.toNat_ofNat, Nat.mod_eq_of_lt hj]

theorem storeSample_afterSamples (hp : periodOf s.freqPattern < 4294967296) (k : Kind)
    (hj : j < 4294967296) : (s.afterSamples k j).storeSample k = s.afterSamples k (j + 1) := by
  have hidx := gidx_afterSamples s k hj
  have hnext : (s.afterSamples k j).gidx + 1 = BitVec.ofNat 32 (j + 1) := (BitVec.ofNat_add ..).symm
  have hprng : (s.afterSamples k j).prngAfter k = (s.afterSamples k (j + 1)).prng := by
    cases k with
    | noise => exact (Function.iterate_succ_apply' xs32 j s.prng).symm
    | sine | tri | saw | pulse => rfl
  simp only [State.storeSample, hidx, hnext, hprng, sample_afterSamples hp]
  rfl

/-! ### The turns of a generation -/

section

variable (hcfg : s.cfg.wellFormed = true) (hpass : s.Passes k)

include hcfg hpass

theorem State.Passes.period_lt : periodOf s.freqPattern < 4294967296 :=
  hpass.fits.trans_lt (Config.depth_lt hcfg)

/-- One turn stores one sample and completes with the last. -/
theorem sequencerTurn_afterSamples (hj : j < periodOf s.freqPattern) :
    sequencerTurn (s.afterSamples k j) = .next
      (if j + 1 = periodOf s.freqPattern then (s.afterSamples k (j + 1)).finishGen
      else s.afterSamples k (j + 1)) := by
  have hp := State.Passes.period_lt hcfg hpass
  have hi : (s.afterSamples k j).gidx.toNat < (s.afterSamples k j).cfg.cycleDepth := by
    rw [gidx_afterSamples s k (hj.trans hp)]
    exact hj.trans_le hpass.fits
  have hlast : (s.afterSamples k j).gidx + 1 = (s.afterSamples k j).plat ↔
      j + 1 = periodOf s.freqPattern := by
    simp only [State.afterSamples]
    bv_omega
  rw [sequencerTurn_gen (k := k) rfl, ← storeSample_afterSamples hp k (hj.trans hp)]
  split_ifs with hl
  · exact genStep_last hi (hlast.2 hl)
  · exact genStep_more hi (mt hlast.1 hl)

/-- Below the period any number of turns leaves the generation running. -/
theorem sequencerTurns_afterSamples (hj : j < periodOf s.freqPattern) :
    sequencerTurns j (s.afterSamples k 0) = .next (s.afterSamples k j) := by
  induction j with
  | zero => rfl
  | succ j ih =>
    refine sequencerTurns_snoc (ih (by omega)) ?_
    rw [sequencerTurn_afterSamples hcfg hpass (by omega), if_neg (by omega)]

/-- The period's number of turns completes it. -/
theorem sequencerTurns_completes :
    sequencerTurns (periodOf s.freqPattern) (s.afterSamples k 0) =
      .next (s.afterSamples k (periodOf s.freqPattern)).finishGen := by
  obtain ⟨m, hm⟩ := Nat.exists_eq_add_of_le' (periodOf_bounds hpass.frequency).1
  have hlast := sequencerTurn_afterSamples hcfg hpass (j := m) (by omega)
  rw [if_pos hm.symm, ← hm] at hlast
  have hrun := sequencerTurns_snoc (sequencerTurns_afterSamples hcfg hpass (j := m) (by omega)) hlast
  rwa [← hm] at hrun

end

/-- Settles O24: the states after `j` samples, and the completed one after the last. -/
theorem generationRunsToCompletion : Obligations.GenerationRunsToCompletion := by
  intro k s t p hinv hr h1 h2 hp hle hd ht
  obtain rfl : p = periodOf s.freqPattern := hp
  have hpass : s.Passes k := .of_bounds h1 h2 hle hd
  rw [exec_command_starts hr hpass, startGen_accept_eq] at ht
  cases ht
  refine ⟨fun j hj => ⟨_, sequencerTurns_afterSamples hinv.config hpass hj, rfl, rfl, rfl⟩,
    _, sequencerTurns_completes hinv.config hpass, fun n hn => ?stored,
    fun n hn => readEntry_cycleAfter_of_le s k hn, periodPattern_toNat hinv.config hle, ?rest⟩
  case stored =>
    exact (congrArg _ (readEntry_cycleAfter_of_lt hinv.ram.1 k hn)).trans (quantPattern_toInt _)
  case rest =>
    have hidle : s.run = .idle := State.busy_false_iff.1 hr.1
    simp only [State.afterSamples, State.finishGen, ← hidle]

/-- Settles O53: both runs complete (O24), the period is that of `FREQ`, every valid entry is its
quantised sample, and the samples agree. -/
theorem cycleDependsOnItsOperandsOnly : Obligations.CycleDependsOnItsOperandsOnly := by
  intro k s s' t t' p hinv hinv' hr hr' hf ha hc hd hp h1 h2 hperiod hle hduty ht ht'
  have hduty' : k = .pulse → 1 ≤ s'.duty.toNat ∧ s'.duty.toNat ≤ 100 := fun hk => hd hk ▸ hduty hk
  obtain ⟨-, u, hu, hcyc, -, hup, hstate⟩ :=
    generationRunsToCompletion k s t p hinv hr h1 h2 hperiod hle hduty ht
  obtain ⟨-, u', hu', hcyc', -, hup', hstate'⟩ :=
    generationRunsToCompletion k s' t' p hinv' hr' (hf ▸ h1) (hf ▸ h2) (hf ▸ hperiod) (hc ▸ hle)
      hduty' ht'
  refine ⟨u, u', hu, hu', BitVec.eq_of_toNat_eq (hup.trans hup'.symm), fun i => ?window, fun hk => ?prng⟩
  case window =>
    rcases Nat.lt_or_ge i p with hi | hi
    · refine BitVec.eq_of_toInt_eq ?_
      rw [window_valid (hup ▸ hi), window_valid (hup' ▸ hi), hcyc i hi, hcyc' i hi,
        cycleSample_congr hf ha hc hd hp]
    · rw [window_masked (hup ▸ hi), window_masked (hup' ▸ hi)]
  case prng => rw [hstate, hstate', if_pos hk, if_pos hk, hp hk]

end Sys2Proof.Machine
end

section
/-! The noise generator and `SEED` (R130, R131, R133): the generator step as a permutation of the words
and as arithmetic, the values its successors reach, and the command that loads it. -/

namespace Sys2Proof.Machine

variable {s t : State}

/-! ### The generator step -/

/-- On finitely many words the step's injectivity is its bijectivity. -/
theorem xs32_bijective : Function.Bijective xs32 := Finite.injective_iff_bijective.1 xs32_injective

/-- The shifts of R130 as products and quotients by powers of 2; a product loses the bits past bit 31. -/
theorem xs32_eq_arith (x : Word) :
    xs32 x =
      (let y := x ^^^ (x * 8192)
       let z := y ^^^ (y / 131072)
       z ^^^ (z * 32)) := by
  have h13 (w : Word) : w <<< 13 = w * 8192 := BitVec.shiftLeft_eq_mul_twoPow w 13
  have h17 (w : Word) : w >>> 17 = w / 131072 :=
    (BitVec.udiv_twoPow_eq_of_lt (x := w) (k := 17) (by decide)).symm
  have h5 (w : Word) : w <<< 5 = w * 32 := BitVec.shiftLeft_eq_mul_twoPow w 5
  simp only [xs32, h13, h17, h5]

/-- Settles O37: injectivity gives the bijection and, with the fixed 0, that no other word meets 0. -/
theorem generatorStepIsABijection : Obligations.GeneratorStepIsABijection :=
  ⟨xs32_bijective, xs32_zero, fun _ => xs32_ne_zero, xs32_eq_arith, by decide⟩

/-! ### The uniform value -/

/-- Every word is some state's successor, so a draw reaches every uniform value. -/
theorem exists_uniformOf_xs32 (y : Word) : ∃ x, uniformOf (xs32 x) = uniformOf y :=
  (xs32_bijective.surjective y).imp fun _ h => congrArg uniformOf h

/-- Half `0x8000` is the least number in two's complement. -/
theorem uniformOf_least : uniformOf 0x80000000 = -1 := by decide +kernel

/-- Half `0x7FFF` is the greatest. -/
theorem uniformOf_greatest : uniformOf 0x7FFF0000 = 32767 / 32768 := by decide +kernel

/-- Settles O38: the value and its range by the state's upper half; the ends by the bijection. -/
theorem uniformValueGrid : Obligations.UniformValueGrid := by
  refine ⟨fun x h hh => ?value, fun x => ?grid, ?least, ?greatest⟩
  case value => rw [hh, uniformOf_upper]
  case grid =>
    obtain ⟨hlo, hhi⟩ := uniformOf_range x
    exact ⟨hlo, hhi, (x.extractLsb' 16 16).toInt, rfl⟩
  case least => exact uniformOf_least ▸ exists_uniformOf_xs32 0x80000000
  case greatest => exact uniformOf_greatest ▸ exists_uniformOf_xs32 0x7FFF0000

/-! ### `SEED` -/

/-- An accepted `SEED` sets `DONE` again and loads the generator. -/
theorem exec_seed_ready (h : s.Ready) :
    exec .seed s = .next { s with prng := seedValue s.seed, done := true } :=
  exec_accepted h.1 (.inl h.2)

/-- A write outside `CMD` never reaches the generator, dropped or stored. -/
theorem takeEvent_hostWrite_prng {a : Nat} {z : AccessSize} {v : Word} (ha : a ≠ 0x004)
    (h : takeEvent (.hostWrite a z v) s = .next t) : t.prng = s.prng := by
  rcases (takeEvent_moved h).prng with hkept | ⟨he, -⟩ | ⟨he, -⟩ | ⟨_, he⟩
  · exact hkept
  · cases he
  · cases he
    exact absurd rfl ha
  · cases he

/-- Settles O14: the accepted command, and the frame of a write to another register than `CMD`. -/
theorem seedLoadsTheGenerator : Obligations.SeedLoadsTheGenerator :=
  fun _ => ⟨exec_seed_ready, fun _ _ => takeEvent_hostWrite_prng (by decide)⟩

end Sys2Proof.Machine
end

section
/-! The triangle's first entry (R152): its product leaves the quantiser's range, and for a period up to 43689
its rounding does too. -/

namespace Sys2Proof.Machine

variable {p : Nat}

/-- A number above a half-integer rounds above the integer below it. -/
theorem lt_rhe_of_half_lt {q : Rat} {z : Int} (h : (z : Rat) + 1 / 2 < q) : z < rhe q := by
  have hlow := (abs_le.1 (rhe_near q)).1
  have hlt : (z : Rat) < rhe q := by linarith
  exact_mod_cast hlt

/-- A number below a half-integer rounds to at most the integer below it. -/
theorem rhe_le_of_lt_half {q : Rat} {z : Int} (h : q < (z : Rat) + 1 / 2) : rhe q ≤ z := by
  have hhigh := (abs_le.1 (rhe_near q)).2
  have hlt : (rhe q : Rat) < (z : Rat) + 1 := by linarith
  exact Int.lt_add_one_iff.1 (by exact_mod_cast hlt)

theorem quant16_triSample_zero (hp : 1 ≤ p) :
    quant16 (triSample p 1 0) = wrap16 (-rhe ((32767 * (p + 2) : Rat) / p)) := by
  rw [quant16, triSample_zero hp, ← rhe_neg]
  congr 2
  ring

/-- The magnitude of the triangle's first product exceeds full scale by `65534 / p`. -/
theorem triangle_first_product_eq (hp : 1 ≤ p) : (32767 * (p + 2) : Rat) / p = 32767 + 65534 / p := by
  have hp' : (p : Rat) ≠ 0 := by exact_mod_cast (Nat.one_le_iff_ne_zero.1 hp)
  field_simp
  ring

theorem wrap16_add_of_range {z : Int} (h1 : -98304 ≤ z) (h2 : z < -32768) : wrap16 z = 65536 + z := by
  unfold wrap16
  omega

/-- Settles O36: the product passes 32768.5, from where its negation wraps, exactly below `p = 43690`. -/
theorem triangleFirstEntryWraps : Obligations.TriangleFirstEntryWraps := by
  intro p hp
  have hp1 : (1 : Rat) ≤ p := by exact_mod_cast hp
  have hp0 : (0 : Rat) < p := by linarith
  rw [quant16_triSample_zero hp, triangle_first_product_eq hp]
  split_ifs with hwrap
  · have hp2 : (p : Rat) ≤ 43689 := by exact_mod_cast hwrap
    have hover : (3 : Rat) / 2 < 65534 / p := by rw [lt_div_iff₀ hp0]; linarith
    have hmax : (65534 : Rat) / p ≤ 65534 := div_le_self (by norm_num) hp1
    have hlow : 32768 < rhe (32767 + 65534 / (p : Rat)) := lt_rhe_of_half_lt (by push_cast; linarith)
    have hhigh : rhe (32767 + 65534 / (p : Rat)) ≤ 98301 := rhe_le_of_le (by push_cast; linarith)
    rw [wrap16_add_of_range (by omega) (by omega), sub_eq_add_neg]
  · have hp2 : (43690 : Rat) ≤ p := by exact_mod_cast not_le.1 hwrap
    have hover : (65534 : Rat) / p < 3 / 2 := by rw [div_lt_iff₀ hp0]; linarith
    have hpos : (0 : Rat) ≤ 65534 / p := by positivity
    have hlow : 32767 ≤ rhe (32767 + 65534 / (p : Rat)) := le_rhe_of_le (by push_cast; linarith)
    have hhigh : rhe (32767 + 65534 / (p : Rat)) ≤ 32768 := rhe_le_of_lt_half (by push_cast; linarith)
    exact wrap16_of_range (by omega) (by omega)

end Sys2Proof.Machine
end

section
/-! `PACK` (R155 to R163): the sample count, the issue of a stream, its byte steps, and the run of a stream
to a ready consumer. -/

namespace Sys2Proof.Machine

variable {s : State} {N j n : Nat}

/-! ### The sample count -/

/-- The integer quotient is the floor of the real product, with 65536 collected into the denominator. -/
theorem sampleCountOf_eq_floor (d : Nat) :
    (sampleCountOf d : Int) = ((44100 : Rat) * ((d : Rat) / 65536)).floor := by
  have h : (44100 : Rat) * ((d : Rat) / 65536) = ((sampleRate * d : Nat) : Rat) / (one16 : Nat) := by
    rw [← mul_div_assoc]
    norm_num [sampleRate, one16]
  rw [h]
  exact (Rat.floor_natCast_div_natCast _ one16).symm

theorem sampleCountOf_eq_zero_iff {d : Nat} : sampleCountOf d = 0 ↔ d ≤ 1 := by
  simp only [sampleCountOf, sampleRate, one16]
  omega

/-- Settles O30: the floor, the bound, and the two durations below one sample. -/
theorem sampleCountIsFloorOfRateTimesDuration : Obligations.SampleCountIsFloorOfRateTimesDuration :=
  fun d => ⟨sampleCountOf_eq_floor d.toNat, sampleCountOf_le d, sampleCountOf_eq_zero_iff⟩

/-! ### The issue of a stream -/

/-- An accepted `PACK` with a held cycle completes at once or starts (R155). -/
theorem exec_pack_held (hr : s.Ready) (hp : s.period ≠ 0) :
    exec .pack s = .next (if sampleCountOf s.durPattern = 0 then (s.accept.setCount 0).markDone
      else (s.accept.setCount (BitVec.ofNat 32 (sampleCountOf s.durPattern))).startPack) := by
  rw [exec_accepted hr.1 (.inl hr.2)]
  exact congrArg _ (if_neg hp)

/-- Settles O18: the two ways on of an accepted `PACK`. -/
theorem packStartsOrCompletes : Obligations.PackStartsOrCompletes :=
  fun _ => exec_pack_held

/-! ### One byte -/

/-- A stream's turn to a ready consumer hands the offered byte over, and completes when it is marked. -/
theorem sequencerTurn_stream (hrun : s.run = .pack) (hready : s.outReady = true) (hp : s.period ≠ 0)
    (hle : s.period.toNat ≤ s.cfg.cycleDepth) :
    sequencerTurn s = .next (if s.offeredByte.last then s.handOver.finishPack else s.handOver) := by
  have hi : s.tileIndex < s.cfg.cycleDepth := (tileIndex_lt hp).trans_le hle
  rw [sequencerTurn_pack hrun hready]
  split_ifs with hl
  · exact packStep_last hp hi hl
  · exact packStep_more hp hi (by simpa using hl)

/-- Settles O25: the byte and the hand-over of each phase; the mark decides between the two ends. -/
theorem byteStep : Obligations.ByteStep := by
  intro s hrun hready hp hle
  rw [sequencerTurn_stream hrun hready hp hle]
  cases hb : s.bph with
  | low =>
    rw [handOver_low hb, offeredByte_low hb]
    rfl
  | high =>
    rw [handOver_high hb, offeredByte_high hb]
    by_cases hl : s.sidx = s.nsamp - 1
    · simp only [decide_eq_true hl, if_pos hl, if_true]
      rfl
    · simp only [decide_eq_false hl, if_neg hl, Bool.false_eq_true, if_false, ← hrun]
      rfl

/-! ### The bytes of a stream and the state after some of them -/

/-- Byte `j` of a stream of `N` samples of the cycle held in `s`: the low byte of a sample, then its high
byte, the last one marked (R157 to R160). -/
def State.streamByte (s : State) (N j : Nat) : OutByte :=
  ⟨(readEntry s.cyc (j / 2 % s.period.toNat)).extractLsb' (8 * (j % 2)) 8, decide (j = 2 * N - 1)⟩

/-- The running state after the first `j` bytes of a stream of `N` samples issued in `s`. -/
def State.afterBytes (s : State) (N j : Nat) : State :=
  { s with
    done := false
    nsamp := BitVec.ofNat 32 N
    sidx := BitVec.ofNat 32 (j / 2)
    bph := if j % 2 = 0 then .low else .high
    run := .pack
    out := s.out ++ (List.range j).map (s.streamByte N) }

/-- Before its first byte the stream is just issued. -/
theorem startPack_accept_eq (s : State) (N : Nat) :
    (s.accept.setCount (BitVec.ofNat 32 N)).startPack = s.afterBytes N 0 := by
  simp only [State.afterBytes, List.range_zero, List.map_nil, List.append_nil]
  rfl

/-- The low byte of sample `n` is byte `2n`; it is never the odd last one. -/
theorem streamByte_even (s : State) (hn : n < N) : s.streamByte N (2 * n) =
    ⟨(readEntry s.cyc (n % s.period.toNat)).extractLsb' 0 8, false⟩ := by
  have hlast : ¬ 2 * n = 2 * N - 1 := by omega
  simp only [State.streamByte, Nat.mul_div_cancel_left n (by norm_num : 0 < 2), Nat.mul_mod_right,
    decide_eq_false hlast, Nat.mul_zero]

/-- The high byte of sample `n` is byte `2n + 1`. -/
theorem streamByte_odd (s : State) (N n : Nat) : s.streamByte N (2 * n + 1) =
    ⟨(readEntry s.cyc (n % s.period.toNat)).extractLsb' 8 8, decide (2 * n + 1 = 2 * N - 1)⟩ := by
  have hdiv : (2 * n + 1) / 2 = n := by omega
  have hmod : (2 * n + 1) % 2 = 1 := by omega
  simp only [State.streamByte, hdiv, hmod, Nat.mul_one]

theorem tileIndex_afterBytes (s : State) (N : Nat) (hj : j / 2 < 4294967296) :
    (s.afterBytes N j).tileIndex = j / 2 % s.period.toNat := by
  simp only [State.tileIndex, State.afterBytes, BitVec.toNat_ofNat, Nat.mod_eq_of_lt hj]

section

variable (hN : N < 4294967296)

include hN

/-- The running state offers the stream's next byte. -/
theorem offeredByte_afterBytes (hj : j < 2 * N) :
    (s.afterBytes N j).offeredByte = s.streamByte N j := by
  have htile := tileIndex_afterBytes s N (j := j) (by omega)
  obtain ⟨n, rfl | rfl⟩ := Nat.even_or_odd' j
  · have hlow : (s.afterBytes N (2 * n)).bph = .low := if_pos (by omega)
    rw [offeredByte_low hlow, htile, streamByte_even s (by omega), show 2 * n / 2 = n by omega]
    rfl
  · have hhigh : (s.afterBytes N (2 * n + 1)).bph = .high := if_neg (by omega)
    have hlast : (s.afterBytes N (2 * n + 1)).sidx = (s.afterBytes N (2 * n + 1)).nsamp - 1 ↔
        2 * n + 1 = 2 * N - 1 := by
      simp only [State.afterBytes]
      bv_omega
    rw [offeredByte_high hhigh, htile, streamByte_odd, show (2 * n + 1) / 2 = n by omega,
      decide_eq_decide.2 hlast]
    rfl

theorem handOver_afterBytes (hj : j < 2 * N) :
    (s.afterBytes N j).handOver = s.afterBytes N (j + 1) := by
  have hout : (s.afterBytes N j).out ++ [(s.afterBytes N j).offeredByte] =
      (s.afterBytes N (j + 1)).out := by
    rw [offeredByte_afterBytes hN hj]
    simp only [State.afterBytes, List.range_succ, List.map_append, List.map_cons, List.map_nil,
      List.append_assoc]
  obtain ⟨n, rfl | rfl⟩ := Nat.even_or_odd' j
  · have hlow : (s.afterBytes N (2 * n)).bph = .low := if_pos (by omega)
    have hnext : (s.afterBytes N (2 * n + 1)).bph = .high := if_neg (by omega)
    have hsidx : (s.afterBytes N (2 * n)).sidx = (s.afterBytes N (2 * n + 1)).sidx := by
      simp only [State.afterBytes, show (2 * n + 1) / 2 = 2 * n / 2 by omega]
    rw [handOver_low hlow]
    simp only [State.emit, hout, ← hnext, hsidx]
    rfl
  · have hhigh : (s.afterBytes N (2 * n + 1)).bph = .high := if_neg (by omega)
    have hnext : (s.afterBytes N (2 * n + 1 + 1)).bph = .low := if_pos (by omega)
    have hsidx : (s.afterBytes N (2 * n + 1)).sidx + 1 = (s.afterBytes N (2 * n + 1 + 1)).sidx := by
      simp only [State.afterBytes, show (2 * n + 1 + 1) / 2 = (2 * n + 1) / 2 + 1 by omega]
      exact (BitVec.ofNat_add ..).symm
    rw [handOver_high hhigh]
    simp only [State.emit, hout, ← hnext, hsidx]
    rfl

/-! ### The turns of a stream -/

variable (hready : s.outReady = true) (hp : s.period ≠ 0) (hle : s.period.toNat ≤ s.cfg.cycleDepth)

include hready hp hle

/-- One turn hands over one byte and completes with the last. -/
theorem sequencerTurn_afterBytes (hj : j < 2 * N) :
    sequencerTurn (s.afterBytes N j) = .next
      (if j + 1 = 2 * N then (s.afterBytes N (j + 1)).finishPack else s.afterBytes N (j + 1)) := by
  have hlast : (s.streamByte N j).last = true ↔ j + 1 = 2 * N := by
    simp only [State.streamByte, decide_eq_true_eq]
    omega
  rw [sequencerTurn_stream (s := s.afterBytes N j) rfl hready hp hle, handOver_afterBytes hN hj,
    offeredByte_afterBytes hN hj]
  simp only [hlast]

/-- Below twice the sample count any number of turns leaves the stream running. -/
theorem sequencerTurns_afterBytes (hj : j < 2 * N) :
    sequencerTurns j (s.afterBytes N 0) = .next (s.afterBytes N j) := by
  induction j with
  | zero => rfl
  | succ j ih =>
    refine sequencerTurns_snoc (ih (by omega)) ?_
    rw [sequencerTurn_afterBytes hN hready hp hle (by omega), if_neg (by omega)]

/-- Twice the sample count of turns complete it. -/
theorem sequencerTurns_finishPack (h0 : N ≠ 0) :
    sequencerTurns (2 * N) (s.afterBytes N 0) = .next (s.afterBytes N (2 * N)).finishPack := by
  obtain ⟨n, rfl⟩ := Nat.exists_eq_succ_of_ne_zero h0
  have hlast : 2 * n + 1 + 1 = 2 * (n + 1) := by omega
  have hturn := sequencerTurn_afterBytes hN hready hp hle (j := 2 * n + 1) (by omega)
  rw [if_pos hlast] at hturn
  exact sequencerTurns_snoc (sequencerTurns_afterBytes hN hready hp hle (j := 2 * n + 1) (by omega)) hturn

end

/-- The bytes of a stream by their numbers. -/
theorem getElem?_stream (s : State) (hj : j < 2 * N) :
    ((List.range (2 * N)).map (s.streamByte N))[j]? = some (s.streamByte N j) := by
  rw [List.getElem?_map, List.getElem?_range hj, Option.map_some]

/-- Settles O27: with no sample `PACK` has completed; otherwise the states after `j` bytes, and the
completed one after the last. -/
theorem streamRunsToCompletion : Obligations.StreamRunsToCompletion := by
  intro s t N hinv hr hp hready hcount ht
  obtain rfl : N = sampleCountOf s.durPattern := hcount
  have hidle : s.run = .idle := State.busy_false_iff.1 hr.1
  rw [exec_pack_held hr hp] at ht
  cases ht
  split_ifs with h0
  · rw [h0]
    exact ⟨fun j hj => absurd hj (Nat.not_lt_zero j), _, [], rfl, (List.append_nil _).symm, rfl,
      fun n hn => absurd hn (Nat.not_lt_zero n), rfl, rfl⟩
  · have hN : sampleCountOf s.durPattern < 4294967296 := (sampleCountOf_le s.dur).trans_lt (by norm_num)
    rw [startPack_accept_eq]
    refine ⟨fun j hj => ⟨_, sequencerTurns_afterBytes hN hready hp hinv.periodBound hj, rfl, rfl⟩,
      _, _, sequencerTurns_finishPack hN hready hp hinv.periodBound h0, rfl, ?length, fun n hn => ?bytes,
      ?count, ?rest⟩
    case length => rw [List.length_map, List.length_range]
    case bytes =>
      rw [getElem?_stream s (by omega), getElem?_stream s (by omega), streamByte_even s hn,
        streamByte_odd]
      exact ⟨rfl, rfl⟩
    case count => exact (BitVec.toNat_ofNat ..).trans (Nat.mod_eq_of_lt hN)
    case rest => simp only [State.afterBytes, State.finishPack, ← hidle]

end Sys2Proof.Machine
end

section
/-! The system commands `NOP` (R180) and `CLRERR` (R181): what each does once accepted, and which of the two
is still accepted while an error is recorded. -/

namespace Sys2Proof.Machine

variable {s : State}

/-! ### `NOP` -/

/-- Acceptance clears `DONE` (R100) and completion sets it again. -/
theorem exec_nop_ready (h : s.Ready) : exec .nop s = .next { s with done := true } :=
  exec_accepted h.1 (.inl h.2)

/-- Completion raises the interrupt of a host that enabled it (R42). -/
theorem irq_of_done_of_ieDone (hd : s.done = true) (hie : s.ctrl.getLsbD 0 = true) : s.irq = true := by
  obtain ⟨hformula, -⟩ := interruptOutputLevel s
  exact hformula.2 (.inl ⟨hd, hie⟩)

/-- Settles O13: accepted when ready, dropped otherwise like every command but `CLRERR`. -/
theorem nopCompletes : Obligations.NopCompletes :=
  fun _ => ⟨exec_nop_ready, fun hb he => exec_blocked hb he (by decide), fun hb => exec_busy hb .nop,
    fun hie => irq_of_done_of_ieDone rfl hie⟩

/-! ### `CLRERR` -/

/-- Whether or not an error is recorded, `CLRERR` is accepted and returns from it. -/
theorem exec_clrerr_idle (h : s.busy = false) :
    exec .clrerr s =
      .next { s with err := false, ovr := false, errcode := 0, errcmd := 0, done := true } :=
  exec_accepted h (.inr rfl)

/-- Settles O15: the return from an error, and the two ways a command is dropped. -/
theorem clrerrReturnsFromError : Obligations.ClrerrReturnsFromError :=
  fun _ => ⟨exec_clrerr_idle, fun hb => exec_busy hb .clrerr, fun _ hi hb he => exec_blocked hb he hi⟩

end Sys2Proof.Machine
end

section
/-! The errors: their entry (R190, R194), the commands and the words that raise them (R191 to R193, R195,
R196, R198), how long a record is kept (R200, R201) and the overrun mark of a dropped write (R205). -/

namespace Sys2Proof.Machine

variable {s t : State} {k : Kind} {e : BlockError} {w : Word}

/-! ### Error entry -/

theorem isGenWord_iff : isGenWord w = true ↔ w ∈ [0x10, 0x11, 0x12, 0x13, 0x14] := by
  simp [isGenWord, or_assoc]

/-- Settles O21: the five codes are those of R190, and the period goes for the five words of the `GEN_*`. -/
theorem errorEntryWritesTheRecord : Obligations.ErrorEntryWritesTheRecord := by
  intro s e w
  simp only [State.raiseError, isGenWord_iff]
  cases e <;> rfl

/-- An error of a `GEN_*` invalidates the held cycle. -/
theorem State.raiseError_command (s : State) (e : BlockError) (k : Kind) :
    s.raiseError e (encode k.command) =
      { s with err := true, errcode := errorCode e, errcmd := encode k.command, period := 0 } := by
  rw [State.raiseError, isGenWord_command, if_pos rfl]

/-- An illegal word leaves the held cycle alone. -/
theorem State.raiseError_illegal (hw : ∀ i, w ≠ encode i) (s : State) :
    s.raiseError .illegalCommand w = { s with err := true, errcode := 5, errcmd := w } := by
  rw [State.raiseError, isGenWord_of_illegal hw]
  rfl

/-! ### The errors of a `GEN_*` -/

theorem genIssue_invalidFrequency (hf : freqLegal s.freqPattern = false) (k : Kind) (w : Word) :
    genIssue k w s = s.raiseError .invalidFrequency w :=
  if_pos hf

theorem genIssue_periodTooLong (hf : freqLegal s.freqPattern = true)
    (hp : s.cfg.cycleDepth < periodOf s.freqPattern) (k : Kind) (w : Word) :
    genIssue k w s = s.raiseError .periodTooLong w := by
  rw [genIssue, if_neg (by simp [hf]), if_pos hp]

theorem genIssue_invalidDutyCycle (hf : freqLegal s.freqPattern = true)
    (hp : periodOf s.freqPattern ≤ s.cfg.cycleDepth) (hd : dutyLegal s.dutyPercent = false) (w : Word) :
    genIssue .pulse w s = s.raiseError .invalidDutyCycle w := by
  rw [genIssue, if_neg (by simp [hf]), if_neg (by omega), if_pos ⟨rfl, hd⟩]

/-- An accepted `GEN_*` whose issue raises an error records it and invalidates the held cycle. -/
theorem exec_command_raises (hr : s.Ready)
    (h : genIssue k (encode k.command) s.accept = s.accept.raiseError e (encode k.command)) :
    exec k.command s = .next { s with done := false, err := true, errcode := errorCode e,
                                      errcmd := encode k.command, period := 0 } := by
  rw [exec_accepted hr.1 (.inl hr.2), commandEffect_gen, h, State.raiseError_command]
  rfl

/-- Settles O17: each of the three checks of the issue fails after those before it have passed. -/
theorem generationErrorsInOrder : Obligations.GenerationErrorsInOrder := by
  refine fun k s hr => ⟨fun hf => ?frequency, fun h1 h2 hp => ?period, fun h1 h2 hp hd => ?duty⟩
  case frequency =>
    have hf : freqLegal s.freqPattern = false := by
      rw [Bool.eq_false_iff, Ne, freqLegal_iff, State.freqPattern]
      omega
    exact exec_command_raises hr (genIssue_invalidFrequency (s := s.accept) hf k _)
  case period =>
    exact exec_command_raises hr
      (genIssue_periodTooLong (s := s.accept) (freqLegal_iff.2 ⟨h1, h2⟩) hp k _)
  case duty =>
    have hd : dutyLegal s.dutyPercent = false := by
      rw [Bool.eq_false_iff, Ne, dutyLegal_iff, State.dutyPercent]
      omega
    exact exec_command_raises (k := .pulse) hr
      (genIssue_invalidDutyCycle (s := s.accept) (freqLegal_iff.2 ⟨h1, h2⟩) hp hd _)

/-! ### The error of `PACK` -/

/-- Settles O19: `PACK` looks at the period first, and its word is no `GEN_*`'s. -/
theorem packOfNoCycleRaisesEmptyCycle : Obligations.PackOfNoCycleRaisesEmptyCycle := by
  intro s hr hp
  rw [exec_accepted hr.1 (.inl hr.2)]
  exact congrArg _ (if_pos hp)

/-! ### Illegal words -/

/-- A word outside the opcode table goes through the acceptance of every command (R100, R196). -/
theorem issue_illegal (hw : ∀ i, w ≠ encode i) (s : State) :
    issue w s = .next (acceptCommand w (State.raiseError · .illegalCommand w) s) := by
  unfold issue
  split
  · next i hd => exact absurd (eq_encode_of_decode hd) (hw i)
  · rfl

/-- Settles O5: the write reaches `CMD`, where the word is dropped or accepted like a command's. -/
theorem illegalWordRaisesIllegalCommand : Obligations.IllegalWordRaisesIllegalCommand := by
  intro s w rest hs hw
  have hcmd : accessed s.cfg.cycleDepth 0x004 .word = some .cmd := rfl
  have hwrite := takeEvent_hostWrite_cmd (s := { s with schedule := rest }) hcmd w
  simp only [step, hs, hwrite, issue_illegal hw]
  rcases acceptCommand_cases w (State.raiseError · .illegalCommand w)
    (({ s with schedule := rest } : State).answer (.write .okay)) with ⟨hd, h⟩ | ⟨hb, he, h⟩
  · have hd : s.busy = true ∨ s.err = true := hd.imp_right And.left
    rw [h, if_pos hd]
    rfl
  · have hb : s.busy = false := hb
    have he : s.err = false := he.resolve_right (hw .clrerr)
    rw [h, State.raiseError_illegal hw, if_neg (by simp [hb, he])]
    rfl

/-! ### The record and the overrun mark through a move -/

variable {ev : Event}

@[simp] theorem State.storeReg_err (s : State) (r : Reg) (v : Word) :
    (s.storeReg r v).err = s.err := by cases r <;> rfl
@[simp] theorem State.storeReg_errcode (s : State) (r : Reg) (v : Word) :
    (s.storeReg r v).errcode = s.errcode := by cases r <;> rfl
@[simp] theorem State.storeReg_errcmd (s : State) (r : Reg) (v : Word) :
    (s.storeReg r v).errcmd = s.errcmd := by cases r <;> rfl
@[simp] theorem State.storeReg_ovr (s : State) (r : Reg) (v : Word) :
    (s.storeReg r v).ovr = s.ovr := by cases r <;> rfl

theorem commandEffect_ovr {i : Instr} (hi : i ≠ .clrerr) (s : State) :
    (commandEffect i s).ovr = s.ovr :=
  let ⟨_, _, _, _, _, _, _, _, _, h⟩ := commandEffect_frame i s; h hi

/-- While an error is recorded the only command accepted is `CLRERR`, which clears the record. -/
theorem Moved.record (h : Moved s ev t) (herr : s.err = true) :
    (t.err = true ∧ t.errcode = s.errcode ∧ t.errcmd = s.errcmd) ∨
    (ev = .hostWrite 0x004 .word 0x00000040 ∧ s.busy = false ∧
      t.err = false ∧ t.errcode = 0 ∧ t.errcmd = 0) ∨
    ∃ d, ev = .reset d := by
  cases h with
  | answered | dropped | held | sampled | generated | consumed => exact .inl ⟨herr, rfl, rfl⟩
  | stored | sent | streamed => simp [herr]
  | commanded i hb he =>
    obtain rfl : i = .clrerr := he.resolve_left (by simp [herr])
    exact .inr (.inl ⟨rfl, hb, rfl, rfl, rfl⟩)
  | illegal w hw hb he => simp [herr] at he
  | wasReset d => exact .inr (.inr ⟨d, rfl⟩)

/-- Settles O49: the record through every move. -/
theorem firstErrorIsKept : Obligations.FirstErrorIsKept :=
  fun _ _ herr h => (step_moved h).record herr

/-- The overrun mark is kept, set by a dropped write, or cleared by `CLRERR` or a reset. -/
theorem Moved.ovr (h : Moved s ev t) :
    t.ovr = s.ovr ∨
    (t.ovr = true ∧ ∃ a v r, ev = .hostWrite a .word v ∧ accessed s.cfg.cycleDepth a .word = some r ∧
      (s.busy = true ∨ (r = .cmd ∧ s.err = true ∧ v ≠ 0x00000040))) ∨
    (t.ovr = false ∧
      ((ev = .hostWrite 0x004 .word 0x00000040 ∧ s.busy = false) ∨ ∃ d, ev = .reset d)) := by
  cases h with
  | answered | illegal | held | sampled | generated | consumed => exact .inl rfl
  | stored | sent | streamed => simp
  | dropped r v ha hd =>
    exact .inr (.inl ⟨rfl, _, v, r, rfl, ha, hd.imp_right fun ⟨he, hr, hv⟩ => ⟨hr, he, hv⟩⟩)
  | commanded i hb =>
    by_cases hi : i = .clrerr
    · subst hi
      exact .inr (.inr ⟨rfl, .inl ⟨rfl, hb⟩⟩)
    · exact .inl (commandEffect_ovr hi _)
  | wasReset d => exact .inr (.inr ⟨rfl, .inr ⟨d, rfl⟩⟩)

/-- Settles O50: the mark through every move, read in both directions. -/
theorem overrunIsStickyAndMarksDroppedWrites : Obligations.OverrunIsStickyAndMarksDroppedWrites := by
  intro s t h
  rcases (step_moved h).ovr with hkept | ⟨hset, hdropped⟩ | ⟨hclear, hcause⟩
  · exact ⟨fun ho => .inl (hkept.trans ho), fun ho ht => by simp [hkept, State.popped, ho] at ht⟩
  · exact ⟨fun _ => .inl hset, fun _ _ => hdropped⟩
  · exact ⟨fun _ => .inr hcause, fun _ ht => by simp [hclear] at ht⟩

end Sys2Proof.Machine
end
